-- ==== Sys2Proof/Word.lean ====
section
/-! DEFINITION. The two value types of the block: the byte (u8) and the 32-bit word (u32) of `00_scope.md` rule R9. -/

namespace Sys2Proof

/-- `u8` of rule R9: a byte of a host buffer, of a key, of an AES state. -/
abbrev Byte := BitVec 8

/-- `u32` of rule R9: a word of a transaction or of a response, an MD5 word. -/
abbrev Word := BitVec 32

end Sys2Proof
end

