-- ==== Sys2Proof/Config.lean ====
section
/-! DEFINITION. What the spec leaves open: the one parameter `KEYSIZE_RESET` (`92_eei_decisions.md`, "Open parameters"). -/

namespace Sys2Proof

/-- The legal values of KEYSIZE, in bits (`10_state.md` rule R40). -/
inductive KeyBits where
  | bits128
  | bits192
  | bits256
  deriving DecidableEq, Repr, Inhabited

/-- The number a KeyBits stands for. -/
def KeyBits.toWord : KeyBits → Word
  | .bits128 => 128
  | .bits192 => 192
  | .bits256 => 256

/-- `KEYSIZE_RESET` (rule R40, decision D27): what RDREG 0x01 reads while no key is loaded. One of 128, 192, 256 and
nothing more is known of it. DESIGN CHOICE, safe: a free value, log entry 8. -/
opaque Config.keysizeReset : KeyBits

end Sys2Proof
end

