-- ==== Sys2Proof/Syntax.lean ====
section
/-! DEFINITION. The commands of `30_encoding.md` rule R90, one constructor of `Instr` for each row of the opcode table,
with their operands as the formats of rules R82 to R87 give them. -/

namespace Sys2Proof

/-- A descriptor word (rule R86): `valid` is bit 31 (V), `handle` is bits 30:0. With V = 0 it is the null descriptor
and its handle bits are ignored. -/
structure Descriptor where
  valid  : Bool
  handle : BitVec 31
  deriving DecidableEq, Repr

/-- The transaction formats (rules R82 to R87). -/
inductive Format where
  | Z | I | B | T | K | K1 | X
  deriving DecidableEq, Repr

/-- The commands. Offsets, counts and immediates are the operand words themselves; `Machine/Operands.lean` reads them
as rule R89 says. -/
inductive Instr where
  | rdreg (n : BitVec 16)
  | rdhash (e : BitVec 4)
  | crc16Init
  | crc32Init
  | xcrcInit
  | crc16Setinit (imm : Word)
  | crc32Setinit (imm : Word)
  | xcrcSetinit (imm : Word)
  | crc16Setxor (imm : Word)
  | crc32Setxor (imm : Word)
  | xcrcSetxor (imm : Word)
  | crc16Update (buf : Descriptor) (offset count : Word)
  | crc32Update (buf : Descriptor) (offset count : Word)
  | xcrcUpdate (buf : Descriptor) (offset count : Word)
  | crc16Final
  | crc32Final
  | xcrcFinal
  | md5Init
  | md5Update (buf : Descriptor) (offset count : Word)
  | md5Final
  | aesKeyexp (key : Descriptor)
  | aesCipher (d0 d1 d2 d3 : Word)
  | aesInvcipher (d0 d1 d2 d3 : Word)
  | cfgSetmode (m : BitVec 16)
  | cfgSetpad (p : BitVec 16)
  | xfCreateEnc (key iv : Descriptor)
  | xfCreateDec (key iv : Descriptor)
  | xfBlock (inBuf : Descriptor) (inOff inCount : Word) (outBuf : Descriptor) (outOff : Word)
  | xfFinal (buf : Descriptor) (offset count : Word)
  | xfDispose
  deriving DecidableEq, Repr

/-- The format of a command (last but one column group of the table in rule R90). -/
def Instr.format : Instr → Format
  | .rdreg _ => .Z
  | .rdhash _ => .Z
  | .crc16Init => .Z
  | .crc32Init => .Z
  | .xcrcInit => .Z
  | .crc16Setinit _ => .I
  | .crc32Setinit _ => .I
  | .xcrcSetinit _ => .I
  | .crc16Setxor _ => .I
  | .crc32Setxor _ => .I
  | .xcrcSetxor _ => .I
  | .crc16Update _ _ _ => .B
  | .crc32Update _ _ _ => .B
  | .xcrcUpdate _ _ _ => .B
  | .crc16Final => .Z
  | .crc32Final => .Z
  | .xcrcFinal => .Z
  | .md5Init => .Z
  | .md5Update _ _ _ => .B
  | .md5Final => .Z
  | .aesKeyexp _ => .K1
  | .aesCipher _ _ _ _ => .X
  | .aesInvcipher _ _ _ _ => .X
  | .cfgSetmode _ => .Z
  | .cfgSetpad _ => .Z
  | .xfCreateEnc _ _ => .K
  | .xfCreateDec _ _ => .K
  | .xfBlock _ _ _ _ _ => .T
  | .xfFinal _ _ _ => .B
  | .xfDispose => .Z

/-- The length of a transaction in words (rule R93). -/
def Format.words : Format → Nat
  | .Z => 1
  | .I => 2
  | .K1 => 2
  | .K => 3
  | .B => 4
  | .X => 5
  | .T => 6

end Sys2Proof
end

