-- ==== Sys2Proof/Machine/State.lean ====
section
/-! DEFINITION. The state of the machine as plain data: every register of `10_state.md` rules R23 to R38, the host buffers
of `20_memory.md` rule R61, and the model's own three fields for the host interface (log entries 1, 2 and 5); the
error taxonomy of `60_exceptions.md` rule R261; the state after reset (rule R46). -/

namespace Sys2Proof.Machine

/-! ### Small types -/

/-- The lifecycle values of the four hash engines (rule R23). -/
inductive HashLc where
  | idle
  | accumulating
  | finalized
  deriving DecidableEq, Repr

/-- The lifecycle values of the transform session (rule R23). -/
inductive XfLc where
  | disposed
  | fresh
  | transforming
  | finalized
  deriving DecidableEq, Repr

/-- `XF_DIR` (rule R23). -/
inductive Dir where
  | encrypt
  | decrypt
  deriving DecidableEq, Repr

/-- The supported cipher modes (`44_transform.md` rule R221). -/
inductive CipherMode where
  | cbc
  | ecb
  deriving DecidableEq, Repr

/-- The supported padding policies (rule R221). `noPad` is the policy the spec calls None. -/
inductive PaddingMode where
  | noPad
  | pkcs7
  | zeros
  deriving DecidableEq, Repr

/-- Four bytes: a row of the key schedule `W` (rule R31), a column of the AES state (rule R33), a word of an inline
block (`30_encoding.md` rule R87). `b0` comes first. -/
structure Quad where
  b0 : Byte
  b1 : Byte
  b2 : Byte
  b3 : Byte
  deriving DecidableEq, Repr

/-- Sixteen bytes in order, column by column (`43_aes_core.md` rule R184): column c holds bytes 4c to 4c+3. -/
structure Block where
  c0 : Quad
  c1 : Quad
  c2 : Quad
  c3 : Quad
  deriving DecidableEq, Repr

def Quad.zero : Quad := ⟨0, 0, 0, 0⟩

def Block.zero : Block := ⟨Quad.zero, Quad.zero, Quad.zero, Quad.zero⟩

/-! ### Registers -/

/-- The registers of one CRC engine of width `w` (rules R23 to R26). -/
structure CrcEngine (w : Nat) where
  lc        : HashLc
  reg       : BitVec w
  initValue : BitVec w
  xorValue  : BitVec w
  hash      : List Byte
  hashValid : Bool
  deriving DecidableEq, Repr

/-- `MD5_ST[0..3]` (rule R27), named a, b, c, d in that order. -/
structure Md5Words where
  a : Word
  b : Word
  c : Word
  d : Word
  deriving DecidableEq, Repr

/-- The registers of the MD5 engine (rules R23, R27 to R30). `buf` is `MD5_BUF[0..63]`. -/
structure Md5Engine where
  lc        : HashLc
  st        : Md5Words
  countLo   : Word
  countHi   : Word
  buf       : List Byte
  hash      : List Byte
  hashValid : Bool
  deriving DecidableEq, Repr

/-- The key schedule (rules R23, R31, R32): `w` is `W[0..59]`. -/
structure KeySchedule where
  w     : List Quad
  nk    : BitVec 4
  valid : Bool
  deriving DecidableEq, Repr

/-- The session registers (rules R23, R36 to R38). `smode` and `spad` are `none` where the register reads 0. -/
structure Session where
  lc        : XfLc
  dir       : Dir
  smode     : Option CipherMode
  spad      : Option PaddingMode
  fb        : Block
  hold      : Block
  holdValid : Bool
  deriving DecidableEq, Repr

/-! ### Errors and responses -/

/-- The subcodes of ERR_ARG (rule R261). -/
inductive ArgSub where
  | null
  | neg
  | bounds
  | overlap
  | keylen
  deriving DecidableEq, Repr

/-- The errors of rule R261: the block's exceptions. -/
inductive Err where
  | arg (sub : ArgSub)
  | notSupported
  | length
  | disposed
  | sequence
  | padding
  | illegal
  deriving DecidableEq, Repr

/-- A response (rule R88): OK with RETVAL and the output bytes, or an error. -/
inductive Response where
  | ok (retval : Word) (out : List Byte)
  | error (e : Err)
  deriving DecidableEq, Repr

/-! ### Host side -/

/-- The host buffers (`20_memory.md` rule R61). `bufs` lists (handle, length), handles rising; byte i of buffer h is
the cell at address h * 2^31 + i. An unlisted byte of a buffer is 0, so no cell holds 0 (log entry 6). -/
structure Memory where
  bufs  : List (Nat × Nat)
  cells : List Host.Cell
  deriving DecidableEq, Repr

/-- What the host does between commands (log entry 1): send words of a transaction (rule R80), create or rewrite a
buffer, remove a buffer (rules R61, R69, R71), reset the block (`70_reset_and_hazards.md` rule R291). -/
inductive HostMove where
  | send (words : List Word)
  | setBuffer (handle : BitVec 31) (bytes : List Byte)
  | dropBuffer (handle : BitVec 31)
  | reset
  deriving DecidableEq, Repr

/-! ### The state -/

/-- All the state there is. -/
structure State where
  crc16    : CrcEngine 16
  crc32    : CrcEngine 32
  xcrc     : CrcEngine 16
  md5      : Md5Engine
  key      : KeySchedule
  aesState : Block
  mode     : CipherMode
  padding  : PaddingMode
  xf       : Session
  mem      : Memory
  link     : List Word
  moves    : List HostMove
  response : Option Response
  deriving DecidableEq, Repr

/-! ### Why a step can stop -/

/-- The model's faults. No command raises one in any state; they mark what the spec gives no meaning. -/
inductive Fault where
  /-- Raised by a command whose read or write leaves the buffer (rules R62, R63: "never called outside a buffer").
  Every command checks the whole range first, so no state reaches it. Safe: the machine stops. -/
  | outsideBuffer
  /-- Raised by a host move: a reset or a change of a buffer while part of a transaction has been sent (rules R72,
  R291: the spec gives no meaning to such a run). Safe: the machine stops. Log entry 4. -/
  | hostMoveInsideTransaction
  /-- Raised by a host move: a buffer longer than 2^31 - 1 bytes, which rule R61 excludes. Safe: the machine stops.
  Log entry 17. -/
  | bufferTooLong
  deriving DecidableEq, Repr

/-- The model's refusals. -/
inductive Refusal where
  /-- Raised by `exec` for an instruction without a meaning. No arm raises it. Safe. -/
  | notModelled (mnemonic : String)
  deriving DecidableEq, Repr

/-- The outcome of a step of this machine. -/
abbrev Result := Host.Outcome State Fault Refusal

/-! ### Reset (rules R46, R290) -/

/-- A CRC engine at its defaults: Idle, initialised, no hash (rules R24 to R26); `n` is the length of its hash. -/
def CrcEngine.reset {w : Nat} (init xor : BitVec w) (n : Nat) : CrcEngine w :=
  { lc := .idle, reg := init, initValue := init, xorValue := xor, hash := List.replicate n 0, hashValid := false }

/-- The initial MD5 words (rule R27). -/
def Md5Words.initial : Md5Words := ⟨0x67452301, 0xefcdab89, 0x98badcfe, 0x10325476⟩

def Md5Words.zero : Md5Words := ⟨0, 0, 0, 0⟩

def Md5Engine.reset : Md5Engine :=
  { lc := .idle, st := Md5Words.initial, countLo := 0, countHi := 0, buf := List.replicate 64 0,
    hash := List.replicate 16 0, hashValid := false }

/-- No key loaded: `W` all zero, `NK` = 0, `KEY_VALID` = 0 (rules R31, R32). -/
def KeySchedule.cleared : KeySchedule := { w := List.replicate 60 Quad.zero, nk := 0, valid := false }

/-- No session: every session register zero (rules R23, R36 to R38). -/
def Session.cleared : Session :=
  { lc := .disposed, dir := .encrypt, smode := .none, spad := .none, fb := Block.zero, hold := Block.zero,
    holdValid := false }

/-- The block right after reset (rule R46), with a host that owns no buffer and does nothing (log entries 2, 7). -/
def State.reset : State :=
  { crc16 := CrcEngine.reset 0x0000 0x0000 2
    crc32 := CrcEngine.reset 0xFFFFFFFF 0xFFFFFFFF 4
    xcrc := CrcEngine.reset 0xA695 0xFFFF 2
    md5 := Md5Engine.reset
    key := KeySchedule.cleared
    aesState := Block.zero
    mode := .cbc
    padding := .pkcs7
    xf := Session.cleared
    mem := { bufs := [], cells := [] }
    link := []
    moves := []
    response := .none }

end Sys2Proof.Machine
end

