-- ==== Sys2Proof/Machine/Bytes.lean ====
section
/-! DEFINITION. ByteOps (`40_byteops.md` rules R111 to R117) and the assembly of bytes into quads, blocks and words that
the commands use. Pure functions; none is a command (rule R110). -/

namespace Sys2Proof.Machine

/-! ### Rotates (rules R111, R112) -/

/-- `RotateLeft` (rule R111). Amounts of 32 or more are outside the contract and unreachable; they are reduced modulo
32 (D33, log entry 12). -/
def rotateLeft (x : Word) (n : Nat) : Word :=
  if n % 32 = 0 then x else (x <<< (n % 32)) ||| (x >>> (32 - n % 32))

/-- `RotateRight` (rule R112). No engine uses it. -/
def rotateRight (x : Word) (n : Nat) : Word :=
  if n % 32 = 0 then x else (x >>> (n % 32)) ||| (x <<< (32 - n % 32))

/-! ### Words and bytes (rules R113 to R116) -/

/-- Byte `k` of a word, byte 0 the least significant. -/
def byteOf (x : Word) (k : Nat) : Byte := x.extractLsb' (8 * k) 8

/-- The four bytes of a word, low byte first. -/
def wordBytes (x : Word) : List Byte := [byteOf x 0, byteOf x 1, byteOf x 2, byteOf x 3]

/-- A word from four bytes, low byte first (rule R114). -/
def wordOf (b0 b1 b2 b3 : Byte) : Word := b3 ++ b2 ++ b1 ++ b0

/-- `Encode` on a whole list of words: little-endian (rule R113) or big-endian (rule R115). -/
def encodeAll (little : Bool) : List Word → List Byte
  | [] => []
  | x :: t => (if little then wordBytes x else (wordBytes x).reverse) ++ encodeAll little t

/-- `Decode` on a whole list of bytes: little-endian (rule R114) or big-endian (rule R115). -/
def decodeAll (little : Bool) : List Byte → List Word
  | b0 :: b1 :: b2 :: b3 :: t => (if little then wordOf b0 b1 b2 b3 else wordOf b3 b2 b1 b0) :: decodeAll little t
  | _ => []

/-- `Encode(words, len, littleEndian)`. No result where `len` is not a multiple of 4 (rule R116, log entry 13) or the
words are too few. -/
def encodeWords (ws : List Word) (len : Nat) (little : Bool) : Option (List Byte) :=
  if len % 4 = 0 ∧ len / 4 ≤ ws.length then some (encodeAll little (ws.take (len / 4))) else none

/-- `Decode(bytes, len, littleEndian)`. No result where `len` is not a multiple of 4 or the bytes are too few. -/
def decodeWords (bs : List Byte) (len : Nat) (little : Bool) : Option (List Word) :=
  if len % 4 = 0 ∧ len ≤ bs.length then some (decodeAll little (bs.take len)) else none

/-! ### Copy and fill (rule R117) -/

/-- `Copy(dst, off, src, 0, len(src))`: `dst[off + k] <- src[k]`, for a range inside `dst`. -/
def copyInto (dst : List Byte) (off : Nat) (src : List Byte) : List Byte :=
  dst.take off ++ src ++ dst.drop (off + src.length)

/-- `Copy(dst, dstOff, src, srcOff, n)`: `dst[dstOff + k] <- src[srcOff + k]` for k below n. -/
def copyBytes (dst : List Byte) (dstOff : Nat) (src : List Byte) (srcOff n : Nat) : List Byte :=
  copyInto dst dstOff ((src.drop srcOff).take n)

/-- `Fill(dst, off, n, v)`: `dst[off + k] <- v` for k below n. -/
def fillInto (dst : List Byte) (off n : Nat) (v : Byte) : List Byte := copyInto dst off (List.replicate n v)

/-- `zeros(n)` of rule R10. -/
def zeros (n : Nat) : List Byte := List.replicate n 0

/-! ### Quads and blocks -/

def Quad.xor (x y : Quad) : Quad := ⟨x.b0 ^^^ y.b0, x.b1 ^^^ y.b1, x.b2 ^^^ y.b2, x.b3 ^^^ y.b3⟩

/-- Bytewise XOR of 16 bytes (`44_transform.md` rule R228). -/
def Block.xor (x y : Block) : Block := ⟨x.c0.xor y.c0, x.c1.xor y.c1, x.c2.xor y.c2, x.c3.xor y.c3⟩

def Quad.map (f : Byte → Byte) (x : Quad) : Quad := ⟨f x.b0, f x.b1, f x.b2, f x.b3⟩

def Block.map (f : Byte → Byte) (x : Block) : Block := ⟨x.c0.map f, x.c1.map f, x.c2.map f, x.c3.map f⟩

/-- The quad of four bytes from place `i` of a sequence. -/
def quadAt (l : List Byte) (i : Nat) : Quad := ⟨l.getD i 0, l.getD (i + 1) 0, l.getD (i + 2) 0, l.getD (i + 3) 0⟩

/-- `Load` (`43_aes_core.md` rule R184): the first 16 bytes of a sequence, column by column. -/
def Block.load (l : List Byte) : Block := ⟨quadAt l 0, quadAt l 4, quadAt l 8, quadAt l 12⟩

def Quad.bytes (x : Quad) : List Byte := [x.b0, x.b1, x.b2, x.b3]

/-- `Store` (rule R184). -/
def Block.bytes (x : Block) : List Byte := x.c0.bytes ++ x.c1.bytes ++ x.c2.bytes ++ x.c3.bytes

/-- The first `k` blocks of a sequence: `data[16j .. 16j+16)` for j below k. -/
def blocksOf : Nat → List Byte → List Block
  | 0, _ => []
  | k + 1, l => Block.load l :: blocksOf k (l.drop 16)

/-- The bytes of a sequence of blocks, in order. -/
def bytesOf : List Block → List Byte
  | [] => []
  | b :: t => b.bytes ++ bytesOf t

/-- A word of an inline block as bytes, low byte first (`30_encoding.md` rule R87). -/
def Quad.ofWord (x : Word) : Quad := ⟨byteOf x 0, byteOf x 1, byteOf x 2, byteOf x 3⟩

/-- The inline block of format X (rule R87). -/
def Block.ofWords (d0 d1 d2 d3 : Word) : Block := ⟨Quad.ofWord d0, Quad.ofWord d1, Quad.ofWord d2, Quad.ofWord d3⟩

/-- Bytes packed into words for a response (rules R87, R88): low byte first, the last word's unused high bytes 0. -/
def packWords : List Byte → List Word
  | [] => []
  | [b0] => [wordOf b0 0 0 0]
  | [b0, b1] => [wordOf b0 b1 0 0]
  | [b0, b1, b2] => [wordOf b0 b1 b2 0]
  | b0 :: b1 :: b2 :: b3 :: t => wordOf b0 b1 b2 b3 :: packWords t

end Sys2Proof.Machine
end

