-- ==== Sys2Proof/Machine/Ops.lean ====
section
/-! DEFINITION. The shared operations: host buffers (`20_memory.md`), ending a command (`respond`, `raise`), and the
reset event. -/

namespace Sys2Proof.Machine

/-! ### One register written, the rest kept -/

def State.withCrc16 (s : State) (v : CrcEngine 16) : State := { s with crc16 := v }

def State.withCrc32 (s : State) (v : CrcEngine 32) : State := { s with crc32 := v }

def State.withXcrc (s : State) (v : CrcEngine 16) : State := { s with xcrc := v }

def State.withMd5 (s : State) (v : Md5Engine) : State := { s with md5 := v }

def State.withKey (s : State) (v : KeySchedule) : State := { s with key := v }

def State.withAesState (s : State) (v : Block) : State := { s with aesState := v }

def State.withMode (s : State) (v : CipherMode) : State := { s with mode := v }

def State.withPadding (s : State) (v : PaddingMode) : State := { s with padding := v }

def State.withXf (s : State) (v : Session) : State := { s with xf := v }

def State.withMem (s : State) (v : Memory) : State := { s with mem := v }

def State.withLink (s : State) (v : List Word) : State := { s with link := v }

def State.withMoves (s : State) (v : List HostMove) : State := { s with moves := v }

def State.withResponse (s : State) (v : Option Response) : State := { s with response := v }

/-! ### Host buffers -/

/-- The number of byte indexes a handle can have (rule R61: lengths are at most 2^31 - 1). -/
def bufferSpan : Nat := 2 ^ 31

/-- The address of byte `i` of buffer `h` (log entry 6). -/
def bufferAddress (h i : Nat) : Nat := h * bufferSpan + i

/-- The length listed for a handle, if the handle names a buffer. -/
def lookupLen : List (Nat × Nat) → Nat → Option Nat
  | [], _ => none
  | (k, n) :: t, h => if k = h then some n else lookupLen t h

/-- `BufLen(h)` (rule R61); `none` where the handle names no buffer. -/
def Memory.bufLen (m : Memory) (h : Nat) : Option Nat := lookupLen m.bufs h

/-- What an address that no cell lists reads as. A buffer's contents are the host's, so this is representation only:
a zero byte is not listed (log entry 6). -/
def unlistedByte : Byte := 0

/-- The byte at an address. -/
def cellAt : List Host.Cell → Nat → Byte
  | [], _ => unlistedByte
  | (a, b) :: t, x => if a = x then b else cellAt t x

/-- Write one byte, keeping addresses rising and listing no unlisted value. -/
def setCell : List Host.Cell → Nat → Byte → List Host.Cell
  | [], x, v => if v = unlistedByte then [] else [(x, v)]
  | (a, b) :: t, x, v =>
    if x < a then (if v = unlistedByte then (a, b) :: t else (x, v) :: (a, b) :: t)
    else if a = x then (if v = unlistedByte then t else (x, v) :: t)
    else (a, b) :: setCell t x v

/-- Write bytes at rising addresses. -/
def setCells (cells : List Host.Cell) (a : Nat) : List Byte → List Host.Cell
  | [] => cells
  | v :: t => setCells (setCell cells a v) (a + 1) t

/-- `HB[h][i]`. -/
def Memory.byte (m : Memory) (h i : Nat) : Byte := cellAt m.cells (bufferAddress h i)

/-- `n` bytes of buffer `h` from index `i`. -/
def Memory.bytes (m : Memory) (h i : Nat) : Nat → List Byte
  | 0 => []
  | n + 1 => m.byte h i :: m.bytes h (i + 1) n

/-- `MemRead((h, i), n)` (rule R62); `none` outside the buffer. -/
def Memory.read (m : Memory) (h i n : Nat) : Option (List Byte) :=
  match m.bufLen h with
  | none => none
  | some len => if i + n ≤ len then some (m.bytes h i n) else none

/-- `MemWrite((h, i), n, v)` with n the length of v (rule R63); `none` outside the buffer. -/
def Memory.write (m : Memory) (h i : Nat) (v : List Byte) : Option Memory :=
  match m.bufLen h with
  | none => none
  | some len => if i + v.length ≤ len then some { m with cells := setCells m.cells (bufferAddress h i) v } else none

/-- List a handle's length, handles rising. -/
def setLen : List (Nat × Nat) → Nat → Nat → List (Nat × Nat)
  | [], h, n => [(h, n)]
  | (k, l) :: t, h, n =>
    if h < k then (h, n) :: (k, l) :: t
    else if k = h then (h, n) :: t
    else (k, l) :: setLen t h n

/-- The host removes buffer `h`: the handle names nothing afterwards. -/
def Memory.drop (m : Memory) (h : Nat) : Memory :=
  { bufs := m.bufs.filter (fun b => b.1 ≠ h), cells := m.cells.filter (fun c => c.1 / bufferSpan ≠ h) }

/-- The host creates or rewrites buffer `h` with the given contents (rules R61, R69). -/
def Memory.put (m : Memory) (h : Nat) (v : List Byte) : Memory :=
  { bufs := setLen m.bufs h v.length, cells := setCells (m.drop h).cells (bufferAddress h 0) v }

/-- The canonical form: handles and addresses rising, no listed byte equal to what an unlisted one reads as, handles and
lengths within rule R61, every cell inside a buffer. -/
abbrev Memory.wf (m : Memory) : Prop :=
  m.cells.Pairwise (fun x y => x.1 < y.1) ∧
  (∀ c ∈ m.cells, c.2 ≠ unlistedByte) ∧
  m.bufs.Pairwise (fun x y => x.1 < y.1) ∧
  (∀ b ∈ m.bufs, b.1 < bufferSpan ∧ b.2 < bufferSpan) ∧
  (∀ c ∈ m.cells, c.1 % bufferSpan < (m.bufLen (c.1 / bufferSpan)).getD 0)

/-! ### Ending a command (`60_exceptions.md` rule R260) -/

/-- `respond(retval, out)` (`30_encoding.md` rule R88): the command completes with STATUS 0. -/
def respond (retval : Word) (out : List Byte) (s : State) : Result :=
  .next (s.withResponse (some (.ok retval out)))

/-- The response of the commands that return bytes: RETVAL = len(out) (rule R88). -/
def respondBytes (out : List Byte) (s : State) : Result := respond (BitVec.ofNat 32 out.length) out s

/-- `raise E(sub)`: TAKING AN EXCEPTION on this hardware (rules R262, R264, R268). No register and no host byte
changes; the response carries the error; nothing else is saved and there is no return (rule R269). -/
def raise (e : Err) (s : State) : Result := .next (s.withResponse (some (.error e)))

/-- The outcome of a command given as its checks and its effect: an error is raised on the state before the command
(rule R262: "computes on copies and commits only on success"). -/
def orRaise {α : Type} (s : State) (r : Except Err α) (k : α → Result) : Result :=
  match r with
  | .error e => raise e s
  | .ok a => k a

/-- The bytes of a checked range. The range has been checked, so the fault is never reached (rule R62). -/
def withBytes (m : Memory) (h i n : Nat) (k : List Byte → Result) : Result :=
  match m.read h i n with
  | none => .fault .outsideBuffer
  | some data => k data

/-! ### The reset event (`70_reset_and_hazards.md` rule R290) -/

/-- Every register of `10_state.md` at its reset value; host buffers, the host's plans, the words on the link and the
last response (which the host holds) untouched. -/
def resetBlock (s : State) : State :=
  { State.reset with mem := s.mem, link := s.link, moves := s.moves, response := s.response }

end Sys2Proof.Machine
end

