-- ==== Sys2Proof/Machine/Flags.lean ====
section
/-! DEFINITION. The numeric codes of the status flags and of the errors, and the registers RDREG composes from them
(`10_state.md` rules R23, R39; `44_transform.md` rule R221; `60_exceptions.md` rule R261; `30_encoding.md` rule R88). -/

namespace Sys2Proof.Machine

/-! ### Codes of the flags (rule R23) -/

def HashLc.code : HashLc → BitVec 2
  | .idle => 0
  | .accumulating => 1
  | .finalized => 2

def XfLc.code : XfLc → BitVec 2
  | .disposed => 0
  | .fresh => 1
  | .transforming => 2
  | .finalized => 3

def Dir.code : Dir → BitVec 1
  | .encrypt => 0
  | .decrypt => 1

/-- Mode codes (rule R221). -/
def CipherMode.code : CipherMode → BitVec 3
  | .cbc => 1
  | .ecb => 2

/-- Padding codes (rule R221). -/
def PaddingMode.code : PaddingMode → BitVec 3
  | .noPad => 1
  | .pkcs7 => 2
  | .zeros => 3

/-- `XF_SMODE` as read: 0 where there is no session (rule R36). -/
def smodeCode : Option CipherMode → BitVec 3
  | none => 0
  | some m => m.code

/-- `XF_SPAD` as read (rule R36). -/
def spadCode : Option PaddingMode → BitVec 3
  | none => 0
  | some p => p.code

/-! ### Composed registers (rule R39) -/

/-- A hash engine's STAT register: [1:0] LC, [2] HASH_VALID. -/
def hashStat (lc : HashLc) (valid : Bool) : Word := 0#29 ++ BitVec.ofBool valid ++ lc.code

/-- XFSTAT: [1:0] XF_LC, [2] XF_DIR, [3] HOLD_VALID, [4] KEY_VALID, [7:5] XF_SMODE, [10:8] XF_SPAD, [14:11] NK. -/
def xfStat (x : Session) (k : KeySchedule) : Word :=
  0#17 ++ k.nk ++ spadCode x.spad ++ smodeCode x.smode ++ BitVec.ofBool k.valid ++ BitVec.ofBool x.holdValid ++
    x.dir.code ++ x.lc.code

/-- KEYSIZE (rule R40): 32 x NK of the loaded key, else the open parameter. -/
def keySize (k : KeySchedule) : Word :=
  if k.valid then 32 * k.nk.setWidth 32 else Config.keysizeReset.toWord

/-! ### Codes of the errors (rule R261) and the words of a response (rule R88) -/

def ArgSub.code : ArgSub → BitVec 8
  | .null => 1
  | .neg => 2
  | .bounds => 3
  | .overlap => 4
  | .keylen => 5

/-- STATUS of an error. -/
def Err.status : Err → BitVec 8
  | .arg _ => 1
  | .notSupported => 2
  | .length => 3
  | .disposed => 4
  | .sequence => 5
  | .padding => 6
  | .illegal => 7

/-- SUB of an error. -/
def Err.sub : Err → BitVec 8
  | .arg sub => sub.code
  | .notSupported => 0
  | .length => 0
  | .disposed => 0
  | .sequence => 0
  | .padding => 0
  | .illegal => 0

/-- RSP0, RSP1, RSP2.. of a response. -/
def Response.words : Response → List Word
  | .ok retval out => 0 :: retval :: packWords out
  | .error e => [0#16 ++ e.sub ++ e.status, 0]

end Sys2Proof.Machine
end

