-- ==== Sys2Proof/Machine/Operands.lean ====
section
/-! DEFINITION. Operand assembly (`30_encoding.md` rules R83 to R89) and the argument checks (`60_exceptions.md` rule
R265, `20_memory.md` rule R68). -/

namespace Sys2Proof.Machine

/-- An `s32` operand (rule R89): value = word[30:0] - 2^31 * word[31]. -/
def s32 (x : Word) : Int := (x.extractLsb' 0 31).toNat - 2 ^ 31 * (x.extractLsb' 31 1).toNat

/-- IMM32 as the value of a 16-bit engine (rule R83): IMM32[15:0], legal only where IMM32[31:16] is 0. -/
def imm16 (imm : Word) : Option (BitVec 16) :=
  if imm.extractLsb' 16 16 = 0 then some (imm.extractLsb' 0 16) else none

/-- The buffer a descriptor names, as (handle, length); `none` where it is null or names no buffer (rules R61, R86). -/
def namedBuffer (m : Memory) (d : Descriptor) : Option (Nat × Nat) :=
  if d.valid then (m.bufLen d.handle.toNat).map (fun n => (d.handle.toNat, n)) else none

/-- A checked range of a buffer: the bytes `off` to `off + len - 1` of buffer `handle`. -/
structure Span where
  handle : Nat
  off    : Nat
  len    : Nat
  deriving DecidableEq, Repr

/-- `check_range(BUF, OFF, CNT)` (rule R265): NULL, then NEG, then BOUNDS, on mathematical integers. -/
def checkRange (m : Memory) (d : Descriptor) (off cnt : Word) : Except Err Span :=
  match namedBuffer m d with
  | none => .error (.arg .null)
  | some (h, n) =>
    if s32 off < 0 ∨ s32 cnt < 0 then .error (.arg .neg)
    else if s32 off + s32 cnt > n then .error (.arg .bounds)
    else .ok ⟨h, (s32 off).toNat, (s32 cnt).toNat⟩

/-- The ranges `[a, a+n)` and `[b, b+n)` intersect (rule R68; only asked for n > 0). -/
def rangesIntersect (a b n : Int) : Bool := 0 < n ∧ a < b + n ∧ b < a + n

/-- The argument checks of XF_BLOCK (`44_transform.md` rule R232), class by class: NULL for both descriptors, NEG for
all three integers, BOUNDS for input and output, OVERLAP, then ERR_LENGTH. Gives the input range, the output handle
and the output offset. -/
def checkBlockRanges (m : Memory) (din : Descriptor) (inOff inCount : Word) (dout : Descriptor) (outOff : Word) :
    Except Err (Span × Nat × Nat) :=
  match namedBuffer m din, namedBuffer m dout with
  | some (hin, nin), some (hout, nout) =>
    if s32 inOff < 0 ∨ s32 inCount < 0 ∨ s32 outOff < 0 then .error (.arg .neg)
    else if s32 inOff + s32 inCount > nin then .error (.arg .bounds)
    else if s32 outOff + s32 inCount > nout then .error (.arg .bounds)
    else if hin = hout ∧ rangesIntersect (s32 inOff) (s32 outOff) (s32 inCount) then .error (.arg .overlap)
    else if s32 inCount % 16 ≠ 0 then .error .length
    else .ok (⟨hin, (s32 inOff).toNat, (s32 inCount).toNat⟩, hout, (s32 outOff).toNat)
  | _, _ => .error (.arg .null)

/-- A key buffer (`43_aes_core.md` rule R200): its handle and its length, which must be 16, 24 or 32. -/
def checkKeyLength (h n : Nat) : Except Err (Nat × Nat) :=
  if n = 16 ∨ n = 24 ∨ n = 32 then .ok (h, n) else .error (.arg .keylen)

/-- The key operand of AES_KEYEXP (rule R200): NULL, then KEYLEN. -/
def checkKey (m : Memory) (d : Descriptor) : Except Err (Nat × Nat) :=
  match namedBuffer m d with
  | none => .error (.arg .null)
  | some (h, n) => checkKeyLength h n

/-- The operands of XF_CREATE_* (`44_transform.md` rule R224): NULL for the key, NULL for the IV, then KEYLEN. Gives
(handle, length) of the key and of the IV. -/
def checkKeyIv (m : Memory) (dkey div : Descriptor) : Except Err ((Nat × Nat) × (Nat × Nat)) :=
  match namedBuffer m dkey, namedBuffer m div with
  | some (hk, nk), some iv =>
    match checkKeyLength hk nk with
    | .error e => .error e
    | .ok key => .ok (key, iv)
  | _, _ => .error (.arg .null)

end Sys2Proof.Machine
end

