-- ==== Sys2Proof/Machine/Crc.lean ====
section
/-! DEFINITION. The CRC engines (`41_crc.md`): the datapath of rules R121, R122, R126 and the fifteen commands of rules
R130 to R134, each rule written once for an engine. -/

namespace Sys2Proof.Machine

/-! ### Datapath -/

/-- `Step16(T, r, b)` (rule R121). -/
def step16 (table : Byte → BitVec 16) (r : BitVec 16) (b : Byte) : BitVec 16 :=
  (r <<< 8) ^^^ table ((r >>> 8).setWidth 8 ^^^ b)

/-- `Step32(r, b)` (rule R122). -/
def step32 (r : Word) (b : Byte) : Word := (r >>> 8) ^^^ tCrc32 (r.setWidth 8 ^^^ b)

/-- `EmitCrc` of the 16-bit engines (rule R126): low byte first. -/
def emit16 (r : BitVec 16) : List Byte := [r.extractLsb' 0 8, r.extractLsb' 8 8]

/-- `EmitCrc` of CRC-32 (rule R126): high byte first. -/
def emit32 (r : Word) : List Byte := [r.extractLsb' 24 8, r.extractLsb' 16 8, r.extractLsb' 8 8, r.extractLsb' 0 8]

/-! ### One engine -/

/-- `v_INIT` on the engine (rule R130). -/
def CrcEngine.init {w : Nat} (e : CrcEngine w) : CrcEngine w := { e with reg := e.initValue, lc := .idle }

/-- `v_SETINIT` on the engine (rule R131). -/
def CrcEngine.setInit {w : Nat} (e : CrcEngine w) (v : BitVec w) : CrcEngine w :=
  { e with initValue := v, reg := v, lc := .idle }

/-- `v_SETXOR` on the engine (rule R132). -/
def CrcEngine.setXor {w : Nat} (e : CrcEngine w) (v : BitVec w) : CrcEngine w := { e with xorValue := v }

/-- `v_UPDATE` on the engine (rule R133): one step per byte, in increasing index order. -/
def CrcEngine.update {w : Nat} (step : BitVec w → Byte → BitVec w) (e : CrcEngine w) (data : List Byte) : CrcEngine w :=
  { e with reg := data.foldl step e.reg, lc := .accumulating }

/-- The bytes `v_FINAL` emits (rule R134). -/
def CrcEngine.result {w : Nat} (emit : BitVec w → List Byte) (e : CrcEngine w) : List Byte := emit (e.reg ^^^ e.xorValue)

/-- `v_FINAL` on the engine (rule R134); `v_REG` is not changed. -/
def CrcEngine.final {w : Nat} (emit : BitVec w → List Byte) (e : CrcEngine w) : CrcEngine w :=
  { e with hash := e.result emit, hashValid := true, lc := .finalized }

/-- The checks of `v_UPDATE` in the order of rule R133. -/
def updateChecks (lc : HashLc) (m : Memory) (d : Descriptor) (off cnt : Word) : Except Err Span :=
  if lc = .finalized then .error .sequence else checkRange m d off cnt

/-- `v_UPDATE` for the engine `e`, which `put` stores back. -/
def crcUpdate {w : Nat} (step : BitVec w → Byte → BitVec w) (e : CrcEngine w) (put : CrcEngine w → State)
    (d : Descriptor) (off cnt : Word) (s : State) : Result :=
  orRaise s (updateChecks e.lc s.mem d off cnt) fun r =>
    withBytes s.mem r.handle r.off r.len fun data => respond 0 [] (put (e.update step data))

/-- `v_FINAL` for the engine `e`, which `put` stores back. -/
def crcFinal {w : Nat} (emit : BitVec w → List Byte) (e : CrcEngine w) (put : CrcEngine w → State) (s : State) : Result :=
  if e.lc = .finalized then raise .sequence s else respondBytes (e.result emit) (put (e.final emit))

/-- A SETINIT or SETXOR of a 16-bit engine: ERR_ILLEGAL where IMM32[31:16] is not 0 (rules R83, R91). -/
def withImm16 (imm : Word) (s : State) (k : BitVec 16 → State) : Result :=
  match imm16 imm with
  | none => raise .illegal s
  | some v => respond 0 [] (k v)

/-! ### INIT (rule R130) -/

def execCrc16Init (s : State) : Result := respond 0 [] (s.withCrc16 s.crc16.init)

def execCrc32Init (s : State) : Result := respond 0 [] (s.withCrc32 s.crc32.init)

def execXcrcInit (s : State) : Result := respond 0 [] (s.withXcrc s.xcrc.init)

/-! ### SETINIT (rule R131) -/

def execCrc16Setinit (imm : Word) (s : State) : Result :=
  withImm16 imm s fun v => s.withCrc16 (s.crc16.setInit v)

def execCrc32Setinit (imm : Word) (s : State) : Result := respond 0 [] (s.withCrc32 (s.crc32.setInit imm))

def execXcrcSetinit (imm : Word) (s : State) : Result :=
  withImm16 imm s fun v => s.withXcrc (s.xcrc.setInit v)

/-! ### SETXOR (rule R132) -/

def execCrc16Setxor (imm : Word) (s : State) : Result :=
  withImm16 imm s fun v => s.withCrc16 (s.crc16.setXor v)

def execCrc32Setxor (imm : Word) (s : State) : Result := respond 0 [] (s.withCrc32 (s.crc32.setXor imm))

def execXcrcSetxor (imm : Word) (s : State) : Result :=
  withImm16 imm s fun v => s.withXcrc (s.xcrc.setXor v)

/-! ### UPDATE (rule R133) -/

def execCrc16Update (d : Descriptor) (off cnt : Word) (s : State) : Result :=
  crcUpdate (step16 tCrc16) s.crc16 s.withCrc16 d off cnt s

def execCrc32Update (d : Descriptor) (off cnt : Word) (s : State) : Result :=
  crcUpdate step32 s.crc32 s.withCrc32 d off cnt s

def execXcrcUpdate (d : Descriptor) (off cnt : Word) (s : State) : Result :=
  crcUpdate (step16 tXcrc) s.xcrc s.withXcrc d off cnt s

/-! ### FINAL (rule R134) -/

def execCrc16Final (s : State) : Result := crcFinal emit16 s.crc16 s.withCrc16 s

def execCrc32Final (s : State) : Result := crcFinal emit32 s.crc32 s.withCrc32 s

def execXcrcFinal (s : State) : Result := crcFinal emit16 s.xcrc s.withXcrc s

end Sys2Proof.Machine
end

