-- ==== Sys2Proof/Machine/Aes.lean ====
section
/-! DEFINITION. The AES core (`43_aes_core.md`): GF(2^8) multipliers, round stages, key expansion, the two block functions
and the three commands of rules R200 to R202. -/

namespace Sys2Proof.Machine

/-! ### GF(2^8) (rules R185, R186) -/

/-- `Gfmultby02` (rule R185). -/
def gf02 (b : Byte) : Byte := if b.getLsbD 7 then (b <<< 1) ^^^ 0x1b else b <<< 1

def gf03 (b : Byte) : Byte := gf02 b ^^^ b

def gf09 (b : Byte) : Byte := gf02 (gf02 (gf02 b)) ^^^ b

def gf0b (b : Byte) : Byte := gf02 (gf02 (gf02 b)) ^^^ gf02 b ^^^ b

def gf0d (b : Byte) : Byte := gf02 (gf02 (gf02 b)) ^^^ gf02 (gf02 b) ^^^ b

def gf0e (b : Byte) : Byte := gf02 (gf02 (gf02 b)) ^^^ gf02 (gf02 b) ^^^ gf02 b

/-! ### Round stages -/

/-- `SubBytes` (rule R187). -/
def subBytes (x : Block) : Block := x.map sbox

/-- `InvSubBytes` (rule R187). -/
def invSubBytes (x : Block) : Block := x.map isbox

/-- `ShiftRows` (rule R188): `S'[r][c] = S[r][(c + r) mod 4]`. -/
def shiftRows (x : Block) : Block :=
  ⟨⟨x.c0.b0, x.c1.b1, x.c2.b2, x.c3.b3⟩, ⟨x.c1.b0, x.c2.b1, x.c3.b2, x.c0.b3⟩,
   ⟨x.c2.b0, x.c3.b1, x.c0.b2, x.c1.b3⟩, ⟨x.c3.b0, x.c0.b1, x.c1.b2, x.c2.b3⟩⟩

/-- `InvShiftRows` (rule R188): `S'[r][c] = S[r][(c - r) mod 4]`. -/
def invShiftRows (x : Block) : Block :=
  ⟨⟨x.c0.b0, x.c3.b1, x.c2.b2, x.c1.b3⟩, ⟨x.c1.b0, x.c0.b1, x.c3.b2, x.c2.b3⟩,
   ⟨x.c2.b0, x.c1.b1, x.c0.b2, x.c3.b3⟩, ⟨x.c3.b0, x.c2.b1, x.c1.b2, x.c0.b3⟩⟩

/-- `MixColumns` on one column (rule R189). -/
def mixColumn (q : Quad) : Quad :=
  ⟨gf02 q.b0 ^^^ gf03 q.b1 ^^^ q.b2 ^^^ q.b3, q.b0 ^^^ gf02 q.b1 ^^^ gf03 q.b2 ^^^ q.b3,
   q.b0 ^^^ q.b1 ^^^ gf02 q.b2 ^^^ gf03 q.b3, gf03 q.b0 ^^^ q.b1 ^^^ q.b2 ^^^ gf02 q.b3⟩

/-- `InvMixColumns` on one column (rule R189). -/
def invMixColumn (q : Quad) : Quad :=
  ⟨gf0e q.b0 ^^^ gf0b q.b1 ^^^ gf0d q.b2 ^^^ gf09 q.b3, gf09 q.b0 ^^^ gf0e q.b1 ^^^ gf0b q.b2 ^^^ gf0d q.b3,
   gf0d q.b0 ^^^ gf09 q.b1 ^^^ gf0e q.b2 ^^^ gf0b q.b3, gf0b q.b0 ^^^ gf0d q.b1 ^^^ gf09 q.b2 ^^^ gf0e q.b3⟩

/-- `MixColumns` (rule R189). -/
def mixColumns (x : Block) : Block := ⟨mixColumn x.c0, mixColumn x.c1, mixColumn x.c2, mixColumn x.c3⟩

/-- `InvMixColumns` (rule R189). -/
def invMixColumns (x : Block) : Block := ⟨invMixColumn x.c0, invMixColumn x.c1, invMixColumn x.c2, invMixColumn x.c3⟩

/-- Row `i` of `W`. -/
def rowAt (w : List Quad) (i : Nat) : Quad := w.getD i Quad.zero

/-- `AddRoundKey(S, round)` (rule R194): row 4*round + c goes to column c. -/
def addRoundKey (w : List Quad) (round : Nat) (x : Block) : Block :=
  x.xor ⟨rowAt w (4 * round), rowAt w (4 * round + 1), rowAt w (4 * round + 2), rowAt w (4 * round + 3)⟩

/-! ### Key expansion (rules R191 to R193) -/

/-- `RotWord` (rule R192). -/
def rotWord (t : Quad) : Quad := ⟨t.b1, t.b2, t.b3, t.b0⟩

/-- `SubWord` (rule R192). -/
def subWord (t : Quad) : Quad := t.map sbox

/-- The key bytes as rows (rule R191). -/
def keyRows : List Byte → List Quad
  | b0 :: b1 :: b2 :: b3 :: t => ⟨b0, b1, b2, b3⟩ :: keyRows t
  | _ => []

/-- `temp` for a row from the row before it (rule R193). -/
def keyTemp (nk row : Nat) (prev : Quad) : Quad :=
  if row % nk = 0 then (subWord (rotWord prev)).xor ⟨rcon (row / nk), 0, 0, 0⟩
  else if 6 < nk ∧ row % nk = 4 then subWord prev
  else prev

/-- `n` more rows from row number `row` on; `done` holds the rows so far, the newest first, so that `w[row-1]` is its
head and `w[row-Nk]` its entry Nk-1. -/
def expandRows (nk : Nat) : (n row : Nat) → (done : List Quad) → List Quad
  | 0, _, done => done
  | n + 1, row, done =>
    expandRows nk n (row + 1) ((rowAt done (nk - 1)).xor (keyTemp nk row (rowAt done 0)) :: done)

/-- The rows of `W` for a key of `nk` words: 4*(Nr+1) expanded rows, the rest zero (rule R193). -/
def expandedKey (nk : Nat) (key : List Byte) : List Quad :=
  let rows := (expandRows nk (4 * (nk + 7) - nk) nk (keyRows key).reverse).reverse
  rows ++ List.replicate (60 - rows.length) Quad.zero

/-- `KeyExpansion(key)` (rule R193): W, NK and KEY_VALID. -/
def keyExpansion (key : List Byte) : KeySchedule :=
  { w := expandedKey (key.length / 4) key, nk := BitVec.ofNat 4 (key.length / 4), valid := true }

/-! ### The block functions (rules R195, R196) -/

/-- Nr = NK + 6 (`10_state.md` rule R42). -/
def KeySchedule.rounds (k : KeySchedule) : Nat := k.nk.toNat + 6

/-- One inner round of `Cipher`. -/
def encRound (w : List Quad) (round : Nat) (x : Block) : Block :=
  addRoundKey w round (mixColumns (shiftRows (subBytes x)))

/-- Rounds 1 to n of `Cipher`, in order. -/
def encRounds (w : List Quad) (x : Block) : Nat → Block
  | 0 => x
  | n + 1 => encRound w (n + 1) (encRounds w x n)

/-- `Cipher(in)` (rule R195). -/
def cipher (k : KeySchedule) (x : Block) : Block :=
  let y := encRounds k.w (addRoundKey k.w 0 x) (k.rounds - 1)
  addRoundKey k.w k.rounds (shiftRows (subBytes y))

/-- One inner round of `InvCipher`. -/
def decRound (w : List Quad) (round : Nat) (x : Block) : Block :=
  invMixColumns (addRoundKey w round (invSubBytes (invShiftRows x)))

/-- Rounds n down to 1 of `InvCipher`. -/
def decRounds (w : List Quad) : Nat → Block → Block
  | 0, x => x
  | n + 1, x => decRounds w n (decRound w (n + 1) x)

/-- `InvCipher(in)` (rule R196). -/
def invCipher (k : KeySchedule) (x : Block) : Block :=
  let y := decRounds k.w (k.rounds - 1) (addRoundKey k.w k.rounds x)
  addRoundKey k.w 0 (invSubBytes (invShiftRows y))

/-! ### The commands -/

/-- The checks of AES_KEYEXP in the order of rule R200. -/
def keyexpChecks (s : State) (k : Descriptor) : Except Err (Nat × Nat) :=
  if s.xf.lc ≠ .disposed then .error .sequence else checkKey s.mem k

/-- `AES_KEYEXP @k` (rule R200). -/
def execAesKeyexp (k : Descriptor) (s : State) : Result :=
  orRaise s (keyexpChecks s k) fun r =>
    withBytes s.mem r.1 0 r.2 fun key => respond 0 [] (s.withKey (keyExpansion key))

/-- A block function on an inline block: needs a key; STATE is zero afterwards (rules R198, R201). -/
def blockCommand (f : KeySchedule → Block → Block) (x : Block) (s : State) : Result :=
  if s.key.valid then respondBytes (f s.key x).bytes (s.withAesState Block.zero) else raise .sequence s

/-- `AES_CIPHER block` (rule R201). -/
def execAesCipher (d0 d1 d2 d3 : Word) (s : State) : Result := blockCommand cipher (Block.ofWords d0 d1 d2 d3) s

/-- `AES_INVCIPHER block` (rule R202). -/
def execAesInvcipher (d0 d1 d2 d3 : Word) (s : State) : Result := blockCommand invCipher (Block.ofWords d0 d1 d2 d3) s

end Sys2Proof.Machine
end

