-- ==== Sys2Proof/Machine/Md5.lean ====
section
/-! DEFINITION. The MD5 engine (`42_md5.md`): the block transform (rules R151 to R160), buffering and the bit counter
(rules R161, R168), padding and digest (rules R162, R163), the three commands (rules R164 to R166). -/

namespace Sys2Proof.Machine

/-! ### The block transform -/

/-- The round functions F, G, H, I (rule R151). -/
def md5F (x y z : Word) : Word := (x &&& y) ||| (~~~x &&& z)
def md5G (x y z : Word) : Word := (x &&& z) ||| (y &&& ~~~z)
def md5H (x y z : Word) : Word := x ^^^ y ^^^ z
def md5I (x y z : Word) : Word := y ^^^ (x ||| ~~~z)

/-- The function of step `i` (rule R150): F, G, H, I for steps 0..15, 16..31, 32..47, 48..63. -/
def md5Fun (i : Nat) (x y z : Word) : Word :=
  if i < 16 then md5F x y z else if i < 32 then md5G x y z else if i < 48 then md5H x y z else md5I x y z

/-- The message word of step `i` (rule R153). -/
def md5K (i : Nat) : Nat :=
  if i < 16 then i else if i < 32 then (5 * i + 1) % 16 else if i < 48 then (3 * i + 5) % 16 else (7 * i) % 16

/-- `Step(p, q, r, s, f, xk, sh, t)` (rule R158) at step `i`. -/
def md5Step (i : Nat) (p q r s xk : Word) : Word :=
  q + rotateLeft (p + md5Fun i q r s + xk + tMd5 i) (sMd5 i)

/-- One step on the working words: which of a, d, c, b it updates, and the roles of the others (rule R152). -/
def md5StepWords (x : List Word) (v : Md5Words) (i : Nat) : Md5Words :=
  let xk := x.getD (md5K i) 0
  match i % 4 with
  | 0 => { v with a := md5Step i v.a v.b v.c v.d xk }
  | 1 => { v with d := md5Step i v.d v.a v.b v.c xk }
  | 2 => { v with c := md5Step i v.c v.d v.a v.b xk }
  | _ => { v with b := md5Step i v.b v.c v.d v.a xk }

/-- The steps 0 to n-1, in order. -/
def md5Steps (x : List Word) (v : Md5Words) : Nat → Md5Words
  | 0 => v
  | n + 1 => md5StepWords x (md5Steps x v n) n

/-- Word-by-word addition modulo 2^32 (rule R159). -/
def Md5Words.add (u v : Md5Words) : Md5Words := ⟨u.a + v.a, u.b + v.b, u.c + v.c, u.d + v.d⟩

/-- `Md5Transform(st, block)` (rule R157). -/
def md5Transform (st : Md5Words) (block : List Byte) : Md5Words := st.add (md5Steps (decodeAll true block) st 64)

/-! ### Buffering and the bit counter -/

/-- The bytes pending in the buffer: (COUNT div 8) mod 64 (`10_state.md` rules R28, R29). -/
def Md5Engine.pending (e : Md5Engine) : Nat := (e.countHi.toNat * 2 ^ 32 + e.countLo.toNat) / 8 % 64

/-- `COUNT <- (COUNT + 8*n) mod 2^64` on the two words (rule R168). -/
def md5Count (lo hi : Word) (n : Nat) : Word × Word :=
  let addLo := BitVec.ofNat 32 (n <<< 3)
  let addHi := BitVec.ofNat 32 (n >>> 29)
  let lo' := lo + addLo
  let carry : Word := if lo' < addLo then 1 else 0
  (lo', hi + addHi + carry)

/-- The full 64-byte chunks of `data`, transformed in order, and the bytes left over. `k` is the number of chunks. -/
def md5Chunks (st : Md5Words) (data : List Byte) : Nat → Md5Words × List Byte
  | 0 => (st, data)
  | k + 1 => md5Chunks (md5Transform st (data.take 64)) (data.drop 64) k

/-- `Md5Core(data)` (rule R161). -/
def Md5Engine.core (e : Md5Engine) (data : List Byte) : Md5Engine :=
  let index := e.pending
  let count := md5Count e.countLo e.countHi data.length
  let partLen := 64 - index
  if partLen ≤ data.length then
    let buf := copyBytes e.buf index data 0 partLen
    let r := md5Chunks (md5Transform e.st buf) (data.drop partLen) ((data.length - partLen) / 64)
    { e with st := r.1, countLo := count.1, countHi := count.2, buf := copyInto buf 0 r.2 }
  else
    { e with countLo := count.1, countHi := count.2, buf := copyInto e.buf index data }

/-- The length of the padding (rule R162), 1 to 64. -/
def md5PadLen (index : Nat) : Nat := if index < 56 then 56 - index else 120 - index

/-- Padding and length (rule R162); the bit count is taken before the padding is fed. -/
def Md5Engine.padded (e : Md5Engine) : Md5Engine :=
  let bits := encodeAll true [e.countLo, e.countHi]
  (e.core (0x80 :: zeros (md5PadLen e.pending - 1))).core bits

/-- The digest of the state words (rule R163): little-endian. -/
def md5Digest (st : Md5Words) : List Byte := encodeAll true [st.a, st.b, st.c, st.d]

/-- The 16 bytes `MD5_FINAL` returns (rules R162, R163). -/
def Md5Engine.digest (e : Md5Engine) : List Byte := md5Digest e.padded.st

/-! ### The engine under the commands -/

/-- `MD5_INIT` on the engine (rule R164). -/
def Md5Engine.init (e : Md5Engine) : Md5Engine :=
  { e with st := Md5Words.initial, countLo := 0, countHi := 0, buf := zeros 64, lc := .idle }

/-- `MD5_UPDATE` on the engine (rule R165). -/
def Md5Engine.update (e : Md5Engine) (data : List Byte) : Md5Engine := { e.core data with lc := .accumulating }

/-- `MD5_FINAL` on the engine (rules R163, R166): the digest kept, the working registers zeroed. -/
def Md5Engine.final (e : Md5Engine) : Md5Engine :=
  { lc := .finalized, st := Md5Words.zero, countLo := 0, countHi := 0, buf := zeros 64, hash := e.digest,
    hashValid := true }

/-! ### The commands -/

/-- `MD5_INIT` (rule R164). -/
def execMd5Init (s : State) : Result := respond 0 [] (s.withMd5 s.md5.init)

/-- `MD5_UPDATE @h, OFFSET, COUNT` (rule R165). -/
def execMd5Update (d : Descriptor) (off cnt : Word) (s : State) : Result :=
  orRaise s (updateChecks s.md5.lc s.mem d off cnt) fun r =>
    withBytes s.mem r.handle r.off r.len fun data => respond 0 [] (s.withMd5 (s.md5.update data))

/-- `MD5_FINAL` (rule R166). -/
def execMd5Final (s : State) : Result :=
  if s.md5.lc = .finalized then raise .sequence s else respondBytes s.md5.digest (s.withMd5 s.md5.final)

end Sys2Proof.Machine
end

