-- ==== Sys2Proof/Machine/System.lean ====
section
/-! DEFINITION. The system commands (`45_system.md` rules R250, R251). -/

namespace Sys2Proof.Machine

/-- The value of register `n` as `10_state.md` rule R39 composes it; `none` where no register has that number. -/
def registerValue (s : State) (n : BitVec 16) : Option Word :=
  match n.toNat with
  | 0x00 => some 128
  | 0x01 => some (keySize s.key)
  | 0x02 => some (s.mode.code.setWidth 32)
  | 0x03 => some (s.padding.code.setWidth 32)
  | 0x04 => some (xfStat s.xf s.key)
  | 0x10 => some (s.crc16.initValue.setWidth 32)
  | 0x11 => some (s.crc16.xorValue.setWidth 32)
  | 0x12 => some 16
  | 0x13 => some (hashStat s.crc16.lc s.crc16.hashValid)
  | 0x14 => some s.crc32.initValue
  | 0x15 => some s.crc32.xorValue
  | 0x16 => some 32
  | 0x17 => some (hashStat s.crc32.lc s.crc32.hashValid)
  | 0x18 => some (s.xcrc.initValue.setWidth 32)
  | 0x19 => some (s.xcrc.xorValue.setWidth 32)
  | 0x1A => some 16
  | 0x1B => some (hashStat s.xcrc.lc s.xcrc.hashValid)
  | 0x20 => some 128
  | 0x21 => some (hashStat s.md5.lc s.md5.hashValid)
  | 0x30 => some 0x00010103
  | _ => none

/-- `RDREG n` (rule R250). -/
def execRdreg (n : BitVec 16) (s : State) : Result :=
  match registerValue s n with
  | none => raise .illegal s
  | some v => respond v [] s

/-- The HASH register of engine `e` with its valid bit (rule R251); `none` where no engine has that number. -/
def hashOf (s : State) (e : BitVec 4) : Option (Bool × List Byte) :=
  match e.toNat with
  | 0 => some (s.crc16.hashValid, s.crc16.hash)
  | 1 => some (s.crc32.hashValid, s.crc32.hash)
  | 2 => some (s.xcrc.hashValid, s.xcrc.hash)
  | 3 => some (s.md5.hashValid, s.md5.hash)
  | _ => none

/-- `RDHASH e` (rule R251). -/
def execRdhash (e : BitVec 4) (s : State) : Result :=
  match hashOf s e with
  | none => raise .illegal s
  | some (valid, hash) => if valid then respondBytes hash s else raise .sequence s

end Sys2Proof.Machine
end

