-- ==== Sys2Proof/Machine/Transform.lean ====
section
/-! DEFINITION. The transform wrapper (`44_transform.md`): configuration (rules R222, R223), sessions (rules R224 to R227),
the block operations of a session (rules R228, R229), XF_BLOCK (rule R232), XF_FINAL (rules R234 to R237), XF_DISPOSE
(rule R240). -/

namespace Sys2Proof.Machine

/-! ### Configuration -/

/-- What a mode code names (rules R221, R222): ERR_ILLEGAL for 0 and above 5, ERR_NOTSUPPORTED for OFB, CFB, CTS. -/
def modeOfCode (m : BitVec 16) : Except Err CipherMode :=
  match m.toNat with
  | 1 => .ok .cbc
  | 2 => .ok .ecb
  | 3 => .error .notSupported
  | 4 => .error .notSupported
  | 5 => .error .notSupported
  | _ => .error .illegal

/-- What a padding code names (rules R221, R223). -/
def paddingOfCode (p : BitVec 16) : Except Err PaddingMode :=
  match p.toNat with
  | 1 => .ok .noPad
  | 2 => .ok .pkcs7
  | 3 => .ok .zeros
  | 4 => .error .notSupported
  | 5 => .error .notSupported
  | _ => .error .illegal

/-- `CFG_SETMODE m` (rule R222). -/
def execCfgSetmode (m : BitVec 16) (s : State) : Result :=
  orRaise s (modeOfCode m) fun v => respond 0 [] (s.withMode v)

/-- `CFG_SETPAD p` (rule R223). -/
def execCfgSetpad (p : BitVec 16) (s : State) : Result :=
  orRaise s (paddingOfCode p) fun v => respond 0 [] (s.withPadding v)

/-! ### Session creation -/

/-- `IvToBlock` on the first `min(BufLen, 16)` bytes of the IV buffer (rule R225): zero-extended to 16. -/
def ivToBlock (iv : List Byte) : Block := Block.load (iv ++ zeros (16 - iv.length))

/-- The session a creation makes (rule R224). -/
def Session.create (dir : Dir) (mode : CipherMode) (pad : PaddingMode) (fb : Block) : Session :=
  { lc := .fresh, dir := dir, smode := some mode, spad := some pad, fb := fb, hold := Block.zero, holdValid := false }

/-- The checks of `XfCreate` in the order of rule R224. -/
def createChecks (s : State) (key iv : Descriptor) : Except Err ((Nat × Nat) × (Nat × Nat)) :=
  if s.xf.lc ≠ .disposed then .error .sequence else checkKeyIv s.mem key iv

/-- `XfCreate(dir, KEYBUF, IVBUF)` (rule R224). -/
def xfCreate (dir : Dir) (key iv : Descriptor) (s : State) : Result :=
  orRaise s (createChecks s key iv) fun r =>
    withBytes s.mem r.1.1 0 r.1.2 fun keyBytes =>
      withBytes s.mem r.2.1 0 (min r.2.2 16) fun ivBytes =>
        respond 0 [] ((s.withKey (keyExpansion keyBytes)).withXf
          (Session.create dir s.mode s.padding (ivToBlock ivBytes)))

/-- `XF_CREATE_ENC @key, @iv` (rule R226). -/
def execXfCreateEnc (key iv : Descriptor) (s : State) : Result := xfCreate .encrypt key iv s

/-- `XF_CREATE_DEC @key, @iv` (rule R227). -/
def execXfCreateDec (key iv : Descriptor) (s : State) : Result := xfCreate .decrypt key iv s

/-! ### Block operations of a session -/

/-- `EncBlock(p)` (rule R228): the ciphertext block and the feedback register after it. -/
def encBlock (k : KeySchedule) (mode : Option CipherMode) (fb p : Block) : Block × Block :=
  if mode = some .cbc then
    let c := cipher k (p.xor fb)
    (c, c)
  else (cipher k p, fb)

/-- `DecBlock(c)` (rule R229): the plaintext block and the feedback register after it. -/
def decBlock (k : KeySchedule) (mode : Option CipherMode) (fb c : Block) : Block × Block :=
  if mode = some .cbc then ((invCipher k c).xor fb, c) else (invCipher k c, fb)

/-- Blocks one at a time in input order (rule R230): the output blocks and the last feedback register. -/
def runBlocks (op : Block → Block → Block × Block) : Block → List Block → List Block × Block
  | fb, [] => ([], fb)
  | fb, x :: t =>
    let r := op fb x
    let rest := runBlocks op r.2 t
    (r.1 :: rest.1, rest.2)

/-- `EncBlock` on every block. -/
def encBlocks (k : KeySchedule) (mode : Option CipherMode) : Block → List Block → List Block × Block :=
  runBlocks (encBlock k mode)

/-- `DecBlock` on every block. -/
def decBlocks (k : KeySchedule) (mode : Option CipherMode) : Block → List Block → List Block × Block :=
  runBlocks (decBlock k mode)

/-- The held-back block as a sequence (rule R231). -/
def Session.held (x : Session) : List Block := if x.holdValid then [x.hold] else []

/-! ### XF_BLOCK -/

/-- What XF_BLOCK does to a session with the input blocks (rules R231, R232): the session after it, `XF_LC` apart, and
the output blocks. -/
def Session.transform (k : KeySchedule) (x : Session) (data : List Block) : Session × List Block :=
  match x.dir, x.spad with
  | .encrypt, _ =>
    let r := encBlocks k x.smode x.fb data
    ({ x with fb := r.2 }, r.1)
  | .decrypt, some .pkcs7 =>
    match data.getLast? with
    | none => (x, [])
    | some last =>
      let r := decBlocks k x.smode x.fb (x.held ++ data.dropLast)
      ({ x with fb := r.2, hold := last, holdValid := true }, r.1)
  | .decrypt, _ =>
    let r := decBlocks k x.smode x.fb data
    ({ x with fb := r.2 }, r.1)

/-- The session is open: ERR_DISPOSED, then ERR_SEQUENCE (rules R220, R266). -/
def openSession (x : Session) : Except Err Unit :=
  match x.lc with
  | .disposed => .error .disposed
  | .finalized => .error .sequence
  | .fresh => .ok ()
  | .transforming => .ok ()

/-- The checks of XF_BLOCK in the order of rule R232. -/
def blockChecks (s : State) (din : Descriptor) (inOff inCount : Word) (dout : Descriptor) (outOff : Word) :
    Except Err (Span × Nat × Nat) :=
  match openSession s.xf with
  | .error e => .error e
  | .ok () => checkBlockRanges s.mem din inOff inCount dout outOff

/-- `XF_BLOCK @in, INOFF, INCOUNT, @out, OUTOFF` (rule R232). RETVAL is the number of bytes written. -/
def execXfBlock (din : Descriptor) (inOff inCount : Word) (dout : Descriptor) (outOff : Word) (s : State) : Result :=
  orRaise s (blockChecks s din inOff inCount dout outOff) fun r =>
    withBytes s.mem r.1.handle r.1.off r.1.len fun data =>
      let t := s.xf.transform s.key (blocksOf (r.1.len / 16) data)
      let out := bytesOf t.2
      match s.mem.write r.2.1 r.2.2 out with
      | none => .fault .outsideBuffer
      | some mem =>
        respond (BitVec.ofNat 32 out.length) []
          (((s.withMem mem).withXf { t.1 with lc := .transforming }).withAesState Block.zero)

/-! ### XF_FINAL -/

/-- `Pad` (rule R234). A session always has a policy; without one nothing is added (log entry 15). -/
def padData (p : Option PaddingMode) (data : List Byte) : List Byte :=
  let r := data.length % 16
  match p with
  | some .pkcs7 => data ++ List.replicate (16 - r) (BitVec.ofNat 8 (16 - r))
  | some .zeros => if r = 0 then data else data ++ zeros (16 - r)
  | some .noPad => data
  | none => data

/-- PKCS7 removal (rule R237): only the last byte is read; ERR_PADDING where it is not 1 to 16, or where there is no
block. -/
def unpadPkcs7 (out : List Byte) : Except Err (List Byte) :=
  match out.getLast? with
  | none => .error .padding
  | some n => if 1 ≤ n.toNat ∧ n.toNat ≤ 16 then .ok (out.take (out.length - n.toNat)) else .error .padding

/-- The length rule (rule R235): whole blocks are needed when encrypting with None and in every decrypt session. -/
def needsWholeBlocks (x : Session) : Bool := x.dir = .decrypt || x.spad = some .noPad

/-- The checks of XF_FINAL before any byte is read, in the order of rule R236. -/
def finalChecks (s : State) (d : Descriptor) (off cnt : Word) : Except Err Span :=
  match openSession s.xf with
  | .error e => .error e
  | .ok () =>
    match checkRange s.mem d off cnt with
    | .error e => .error e
    | .ok r => if needsWholeBlocks s.xf ∧ r.len % 16 ≠ 0 then .error .length else .ok r

/-- The encrypt half of XF_FINAL (rule R236): the session after it and the output bytes. -/
def Session.finishEncrypt (k : KeySchedule) (x : Session) (data : List Byte) : Session × List Byte :=
  let padded := padData x.spad data
  let r := encBlocks k x.smode x.fb (blocksOf (padded.length / 16) padded)
  ({ x with fb := r.2, lc := .finalized }, bytesOf r.1)

/-- The decrypt half of XF_FINAL (rules R236, R237), computed on copies: an error leaves the session as it was. -/
def Session.finishDecrypt (k : KeySchedule) (x : Session) (data : List Byte) : Except Err (Session × List Byte) :=
  let r := decBlocks k x.smode x.fb (x.held ++ blocksOf (data.length / 16) data)
  let after := { x with fb := r.2, hold := Block.zero, holdValid := false, lc := .finalized }
  if x.spad = some .pkcs7 then
    match unpadPkcs7 (bytesOf r.1) with
    | .error e => .error e
    | .ok out => .ok (after, out)
  else .ok (after, bytesOf r.1)

/-- Either half (rule R236). -/
def Session.finish (k : KeySchedule) (x : Session) (data : List Byte) : Except Err (Session × List Byte) :=
  match x.dir with
  | .encrypt => .ok (x.finishEncrypt k data)
  | .decrypt => x.finishDecrypt k data

/-- `XF_FINAL @in, OFFSET, COUNT` (rule R236). The output is returned in the response. -/
def execXfFinal (d : Descriptor) (off cnt : Word) (s : State) : Result :=
  orRaise s (finalChecks s d off cnt) fun r =>
    withBytes s.mem r.handle r.off r.len fun data =>
      orRaise s (s.xf.finish s.key data) fun t =>
        respondBytes t.2 ((s.withXf t.1).withAesState Block.zero)

/-! ### XF_DISPOSE -/

/-- `XF_DISPOSE` (rule R240): key schedule and session zeroed, MODE and PADDING kept. -/
def execXfDispose (s : State) : Result := respond 0 [] ((s.withKey KeySchedule.cleared).withXf Session.cleared)

end Sys2Proof.Machine
end

