-- ==== Sys2Proof/Machine/Dispatch.lean ====
section
/-! DEFINITION. One arm per command: which meaning runs. -/

namespace Sys2Proof.Machine

def exec (i : Instr) (s : State) : Host.Outcome State Fault Refusal :=
  match i with
  | .rdreg n => Sys2Proof.Machine.execRdreg n s
  | .rdhash e => Sys2Proof.Machine.execRdhash e s
  | .crc16Init => Sys2Proof.Machine.execCrc16Init s
  | .crc32Init => Sys2Proof.Machine.execCrc32Init s
  | .xcrcInit => Sys2Proof.Machine.execXcrcInit s
  | .crc16Setinit imm => Sys2Proof.Machine.execCrc16Setinit imm s
  | .crc32Setinit imm => Sys2Proof.Machine.execCrc32Setinit imm s
  | .xcrcSetinit imm => Sys2Proof.Machine.execXcrcSetinit imm s
  | .crc16Setxor imm => Sys2Proof.Machine.execCrc16Setxor imm s
  | .crc32Setxor imm => Sys2Proof.Machine.execCrc32Setxor imm s
  | .xcrcSetxor imm => Sys2Proof.Machine.execXcrcSetxor imm s
  | .crc16Update d off cnt => Sys2Proof.Machine.execCrc16Update d off cnt s
  | .crc32Update d off cnt => Sys2Proof.Machine.execCrc32Update d off cnt s
  | .xcrcUpdate d off cnt => Sys2Proof.Machine.execXcrcUpdate d off cnt s
  | .crc16Final => Sys2Proof.Machine.execCrc16Final s
  | .crc32Final => Sys2Proof.Machine.execCrc32Final s
  | .xcrcFinal => Sys2Proof.Machine.execXcrcFinal s
  | .md5Init => Sys2Proof.Machine.execMd5Init s
  | .md5Update d off cnt => Sys2Proof.Machine.execMd5Update d off cnt s
  | .md5Final => Sys2Proof.Machine.execMd5Final s
  | .aesKeyexp k => Sys2Proof.Machine.execAesKeyexp k s
  | .aesCipher x0 x1 x2 x3 => Sys2Proof.Machine.execAesCipher x0 x1 x2 x3 s
  | .aesInvcipher x0 x1 x2 x3 => Sys2Proof.Machine.execAesInvcipher x0 x1 x2 x3 s
  | .cfgSetmode m => Sys2Proof.Machine.execCfgSetmode m s
  | .cfgSetpad p => Sys2Proof.Machine.execCfgSetpad p s
  | .xfCreateEnc k iv => Sys2Proof.Machine.execXfCreateEnc k iv s
  | .xfCreateDec k iv => Sys2Proof.Machine.execXfCreateDec k iv s
  | .xfBlock x off cnt y outOff => Sys2Proof.Machine.execXfBlock x off cnt y outOff s
  | .xfFinal d off cnt => Sys2Proof.Machine.execXfFinal d off cnt s
  | .xfDispose => Sys2Proof.Machine.execXfDispose s

end Sys2Proof.Machine
end

