-- ==== Sys2Proof/WellFormed.lean ====
section
/-! DEFINITION. Which command terms are legal transactions: the operand-value conditions of `30_encoding.md` rule R91
(the conditions on the command word's other fields are the decoder's). A term that fails here is answered ERR_ILLEGAL. -/

namespace Sys2Proof

/-- The register numbers of `10_state.md` rule R39. -/
def registerNumbers : List (BitVec 16) :=
  [0x00, 0x01, 0x02, 0x03, 0x04] ++
  [0x10, 0x11, 0x12, 0x13, 0x14, 0x15, 0x16, 0x17, 0x18, 0x19, 0x1A, 0x1B] ++
  [0x20, 0x21, 0x30]

/-- A mode or padding code that names something (rule R221): 1 to 5. -/
def isCode (c : BitVec 16) : Bool := 1 ≤ c.toNat && c.toNat ≤ 5

/-- `IMM32[31:16]` is 0 (rule R83). -/
def fits16 (imm : Word) : Bool := imm.toNat < 2 ^ 16

/-- The operand-value conditions of rule R91. -/
def Instr.wellFormed : Instr → Bool
  | .rdreg n => registerNumbers.contains n
  | .rdhash e => e.toNat ≤ 3
  | .crc16Setinit imm => fits16 imm
  | .xcrcSetinit imm => fits16 imm
  | .crc16Setxor imm => fits16 imm
  | .xcrcSetxor imm => fits16 imm
  | .cfgSetmode m => isCode m
  | .cfgSetpad p => isCode p
  | .crc32Setinit _ => true
  | .crc32Setxor _ => true
  | .crc16Init => true
  | .crc32Init => true
  | .xcrcInit => true
  | .crc16Update _ _ _ => true
  | .crc32Update _ _ _ => true
  | .xcrcUpdate _ _ _ => true
  | .crc16Final => true
  | .crc32Final => true
  | .xcrcFinal => true
  | .md5Init => true
  | .md5Update _ _ _ => true
  | .md5Final => true
  | .aesKeyexp _ => true
  | .aesCipher _ _ _ _ => true
  | .aesInvcipher _ _ _ _ => true
  | .xfCreateEnc _ _ => true
  | .xfCreateDec _ _ => true
  | .xfBlock _ _ _ _ _ => true
  | .xfFinal _ _ _ => true
  | .xfDispose => true

end Sys2Proof
end

