-- ==== Sys2Proof/Decode.lean ====
section
/-! DEFINITION. From the words of the link to a command and back (`30_encoding.md` rules R81 to R93). The decoder is total:
it gives a command with the words after it, or rejects the command word by name, or says that operand words are still
missing. The operand-value conditions of rule R91 are `Instr.wellFormed` and are checked by the commands themselves, as
rules R131, R132, R222, R223, R250 and R251 write them (log entry 9). -/

namespace Sys2Proof

/-! ### The fields of the command word (rule R81) -/

/-- CW[31:28]. -/
def cwUnit (cw : Word) : BitVec 4 := cw.extractLsb' 28 4
/-- CW[27:24]. -/
def cwOp (cw : Word) : BitVec 4 := cw.extractLsb' 24 4
/-- CW[23:20]. -/
def cwSel (cw : Word) : BitVec 4 := cw.extractLsb' 20 4
/-- CW[19:16], reserved, must be 0. -/
def cwRsv (cw : Word) : BitVec 4 := cw.extractLsb' 16 4
/-- CW[15:0]. -/
def cwImm16 (cw : Word) : BitVec 16 := cw.extractLsb' 0 16

/-- The command word with the given fields (rule R81). -/
def mkCw (unit op sel : BitVec 4) (imm : BitVec 16) : Word := unit ++ op ++ sel ++ 0#4 ++ imm

/-- Descriptor word to descriptor (rule R86): D[31] = V, D[30:0] = HANDLE. -/
def toDescriptor (d : Word) : Descriptor := ⟨d.getLsbD 31, d.extractLsb' 0 31⟩

/-- Descriptor to descriptor word (rule R86). -/
def ofDescriptor (d : Descriptor) : Word := BitVec.ofBool d.valid ++ d.handle

/-! ### Decoding -/

/-- Why a command word is not one of the 30 (rule R91). -/
inductive Illegal where
  /-- UNIT is 5 to 15. -/
  | unassignedUnit
  /-- (UNIT, OP) is not a pair of the table in rule R90. -/
  | unassignedOp
  /-- SEL is no CRC engine of UNIT 1, or non-zero where the table shows 0. -/
  | badSelect
  /-- CW[19:16] is not 0. -/
  | reservedNonzero
  /-- IMM16 is non-zero in a command that does not use it. -/
  | immNonzero
  deriving DecidableEq, Repr

/-- What stands at the front of the link. -/
inductive Decoded where
  /-- A command, and the words after its transaction. -/
  | command (i : Instr) (rest : List Word)
  /-- An illegal command word: a one-word transaction (rule R93), and the words after it. -/
  | illegal (why : Illegal) (rest : List Word)
  /-- The transaction is not complete yet. -/
  | incomplete
  deriving DecidableEq, Repr

/-- Format Z (rule R82). -/
def takeZ (i : Instr) (rest : List Word) : Decoded := .command i rest

/-- Format I (rule R83). -/
def takeI (mk : Word → Instr) : List Word → Decoded
  | imm :: rest => .command (mk imm) rest
  | _ => .incomplete

/-- Format B (rule R84). -/
def takeB (mk : Descriptor → Word → Word → Instr) : List Word → Decoded
  | d :: off :: cnt :: rest => .command (mk (toDescriptor d) off cnt) rest
  | _ => .incomplete

/-- Format T (rule R85). -/
def takeT (mk : Descriptor → Word → Word → Descriptor → Word → Instr) : List Word → Decoded
  | din :: off :: cnt :: dout :: outOff :: rest => .command (mk (toDescriptor din) off cnt (toDescriptor dout) outOff) rest
  | _ => .incomplete

/-- Format K1 (rule R86). -/
def takeK1 (mk : Descriptor → Instr) : List Word → Decoded
  | k :: rest => .command (mk (toDescriptor k)) rest
  | _ => .incomplete

/-- Format K (rule R86). -/
def takeK (mk : Descriptor → Descriptor → Instr) : List Word → Decoded
  | k :: iv :: rest => .command (mk (toDescriptor k) (toDescriptor iv)) rest
  | _ => .incomplete

/-- Format X (rule R87). -/
def takeX (mk : Word → Word → Word → Word → Instr) : List Word → Decoded
  | d0 :: d1 :: d2 :: d3 :: rest => .command (mk d0 d1 d2 d3) rest
  | _ => .incomplete

/-- A command whose SEL and IMM16 must both be 0 (rule R81). -/
def plain (cw : Word) (rest : List Word) (d : Decoded) : Decoded :=
  if cwSel cw ≠ 0 then .illegal .badSelect rest
  else if cwImm16 cw ≠ 0 then .illegal .immNonzero rest
  else d

/-- A command that uses IMM16 and whose SEL must be 0 (rule R81). -/
def withImm (cw : Word) (rest : List Word) (mk : BitVec 16 → Instr) : Decoded :=
  if cwSel cw ≠ 0 then .illegal .badSelect rest else takeZ (mk (cwImm16 cw)) rest

/-- A command of the CRC unit: SEL chooses the engine (rule R120), IMM16 must be 0. -/
def crcSelect (cw : Word) (rest : List Word) (crc16 crc32 xcrc : Decoded) : Decoded :=
  if cwImm16 cw ≠ 0 then .illegal .immNonzero rest
  else match (cwSel cw).toNat with
    | 0 => crc16
    | 1 => crc32
    | 2 => xcrc
    | _ => .illegal .badSelect rest

/-- The opcode map of rule R90: UNIT and OP choose the row. -/
def decodeRow (cw : Word) (rest : List Word) : Decoded :=
  match (cwUnit cw).toNat, (cwOp cw).toNat with
  | 0, 0 => withImm cw rest .rdreg
  | 0, 1 => if cwImm16 cw ≠ 0 then .illegal .immNonzero rest else takeZ (.rdhash (cwSel cw)) rest
  | 1, 0 => crcSelect cw rest (takeZ .crc16Init rest) (takeZ .crc32Init rest) (takeZ .xcrcInit rest)
  | 1, 1 => crcSelect cw rest (takeI .crc16Setinit rest) (takeI .crc32Setinit rest) (takeI .xcrcSetinit rest)
  | 1, 2 => crcSelect cw rest (takeI .crc16Setxor rest) (takeI .crc32Setxor rest) (takeI .xcrcSetxor rest)
  | 1, 3 => crcSelect cw rest (takeB .crc16Update rest) (takeB .crc32Update rest) (takeB .xcrcUpdate rest)
  | 1, 4 => crcSelect cw rest (takeZ .crc16Final rest) (takeZ .crc32Final rest) (takeZ .xcrcFinal rest)
  | 2, 0 => plain cw rest (takeZ .md5Init rest)
  | 2, 3 => plain cw rest (takeB .md5Update rest)
  | 2, 4 => plain cw rest (takeZ .md5Final rest)
  | 3, 0 => plain cw rest (takeK1 .aesKeyexp rest)
  | 3, 1 => plain cw rest (takeX .aesCipher rest)
  | 3, 2 => plain cw rest (takeX .aesInvcipher rest)
  | 4, 0 => withImm cw rest .cfgSetmode
  | 4, 1 => withImm cw rest .cfgSetpad
  | 4, 2 => plain cw rest (takeK .xfCreateEnc rest)
  | 4, 3 => plain cw rest (takeK .xfCreateDec rest)
  | 4, 4 => plain cw rest (takeT .xfBlock rest)
  | 4, 5 => plain cw rest (takeB .xfFinal rest)
  | 4, 6 => plain cw rest (takeZ .xfDispose rest)
  | unit, _ => .illegal (if 5 ≤ unit then .unassignedUnit else .unassignedOp) rest

/-- Decode the front of the link: "A decoder reads `CW`, looks up the format, and then takes that many operand words.
An illegal `CW` is a one-word transaction" (rule R93). -/
def decode : List Word → Decoded
  | [] => .incomplete
  | cw :: rest => if cwRsv cw ≠ 0 then .illegal .reservedNonzero rest else decodeRow cw rest

/-! ### Encoding -/

/-- The words of a command's transaction (rules R82 to R87, R90). -/
def encode : Instr → List Word
  | .rdreg n => [mkCw 0 0 0 n]
  | .rdhash e => [mkCw 0 1 e 0]
  | .crc16Init => [mkCw 1 0 0 0]
  | .crc32Init => [mkCw 1 0 1 0]
  | .xcrcInit => [mkCw 1 0 2 0]
  | .crc16Setinit imm => [mkCw 1 1 0 0, imm]
  | .crc32Setinit imm => [mkCw 1 1 1 0, imm]
  | .xcrcSetinit imm => [mkCw 1 1 2 0, imm]
  | .crc16Setxor imm => [mkCw 1 2 0 0, imm]
  | .crc32Setxor imm => [mkCw 1 2 1 0, imm]
  | .xcrcSetxor imm => [mkCw 1 2 2 0, imm]
  | .crc16Update d off cnt => [mkCw 1 3 0 0, ofDescriptor d, off, cnt]
  | .crc32Update d off cnt => [mkCw 1 3 1 0, ofDescriptor d, off, cnt]
  | .xcrcUpdate d off cnt => [mkCw 1 3 2 0, ofDescriptor d, off, cnt]
  | .crc16Final => [mkCw 1 4 0 0]
  | .crc32Final => [mkCw 1 4 1 0]
  | .xcrcFinal => [mkCw 1 4 2 0]
  | .md5Init => [mkCw 2 0 0 0]
  | .md5Update d off cnt => [mkCw 2 3 0 0, ofDescriptor d, off, cnt]
  | .md5Final => [mkCw 2 4 0 0]
  | .aesKeyexp k => [mkCw 3 0 0 0, ofDescriptor k]
  | .aesCipher d0 d1 d2 d3 => [mkCw 3 1 0 0, d0, d1, d2, d3]
  | .aesInvcipher d0 d1 d2 d3 => [mkCw 3 2 0 0, d0, d1, d2, d3]
  | .cfgSetmode m => [mkCw 4 0 0 m]
  | .cfgSetpad p => [mkCw 4 1 0 p]
  | .xfCreateEnc k iv => [mkCw 4 2 0 0, ofDescriptor k, ofDescriptor iv]
  | .xfCreateDec k iv => [mkCw 4 3 0 0, ofDescriptor k, ofDescriptor iv]
  | .xfBlock din off cnt dout outOff => [mkCw 4 4 0 0, ofDescriptor din, off, cnt, ofDescriptor dout, outOff]
  | .xfFinal d off cnt => [mkCw 4 5 0 0, ofDescriptor d, off, cnt]
  | .xfDispose => [mkCw 4 6 0 0]

/-! ### The table's numbering of bits -/

/-- The number of words of the transaction that a command word begins: the format's length, or 1 where the command
word is illegal (rule R93). Read off the decoder, which takes at most five operand words. -/
def transactionWords (cw : Word) : Nat :=
  match decode [cw, 0, 0, 0, 0, 0] with
  | .command _ rest => 6 - rest.length
  | .illegal _ _ => 1
  | .incomplete => 1

/-- `n` words of the number `w`, the first word from its low 32 bits. -/
def wordsOfNat (w : Nat) : Nat → List Word
  | 0 => []
  | n + 1 => BitVec.ofNat 32 w :: wordsOfNat (w >>> 32) n

/-- The words of the transaction whose bits are `w`, numbered as the opcode table numbers them; every bit from `nbits`
on is 0. -/
def tableWords (nbits w : Nat) : List Word :=
  let bits := w % 2 ^ nbits
  wordsOfNat bits (transactionWords (BitVec.ofNat 32 bits))

/-- The command the decoder reads from a table row's bits. -/
def decodeTableWord (nbits w : Nat) : Option Instr :=
  match decode (tableWords nbits w) with
  | .command i _ => some i
  | .illegal _ _ => none
  | .incomplete => none

end Sys2Proof
end

