-- ==== Sys2Proof/Machine/HostLink.lean ====
section
/-! DEFINITION. The host's side of a step (log entries 1 to 4): what the host does while the block has no complete
transaction to run, and how a transaction is placed on the link. -/

namespace Sys2Proof.Machine

/-- A host action that is only allowed between commands (`20_memory.md` rule R72, `70_reset_and_hazards.md` rule R291). -/
def betweenCommands (s : State) (r : Result) : Result :=
  if s.link = [] then r else .fault .hostMoveInsideTransaction

/-- One host move. -/
def hostMove (s : State) : HostMove → Result
  | .send ws => .next (s.withLink (s.link ++ ws))
  | .setBuffer h v =>
    betweenCommands s
      (if v.length < bufferSpan then .next (s.withMem (s.mem.put h.toNat v)) else .fault .bufferTooLong)
  | .dropBuffer h => betweenCommands s (.next (s.withMem (s.mem.drop h.toNat)))
  | .reset => betweenCommands s (.next (resetBlock s))

/-- The host's turn. With nothing planned the block waits: nothing changes (log entry 3). -/
def hostTurn (s : State) : Result :=
  match s.moves with
  | [] => .next s
  | m :: rest => hostMove (s.withMoves rest) m

/-- The transaction whose bits are `w` (numbered as the opcode table numbers them) placed at the front of the link. -/
def placeTransaction (s : State) (nbits w : Nat) : State := s.withLink (tableWords nbits w ++ s.link)

end Sys2Proof.Machine
end

