-- ==== Sys2Proof/Machine/Step.lean ====
section
/-! DEFINITION. One step: the block runs the transaction at the front of the link, or answers ERR_ILLEGAL to an illegal
command word (`30_encoding.md` rule R91), or, with no complete transaction there, the host moves. -/

namespace Sys2Proof.Machine

/-- One step of the machine (`00_scope.md` rule R8, `20_memory.md` rule R71). -/
def step (s : State) : Host.Outcome State Fault Refusal :=
  match decode s.link with
  | .command i rest => exec i (s.withLink rest)
  | .illegal _ rest => raise .illegal (s.withLink rest)
  | .incomplete => hostTurn s

/-- `s` with the transaction whose bits are `w` next on the link. -/
def State.withFetchWord (s : State) (nbits w : Nat) : State := placeTransaction s nbits w

end Sys2Proof.Machine
end

