-- ==== Sys2Proof/Safety.lean ====
section
/-! DEFINITION. What a safe state and a safe run are: the invariants the spec states of the registers between commands. -/

namespace Sys2Proof.Machine

/-- The key schedule (`10_state.md` rules R31, R32): 60 rows; NK is 0 and W all zero without a key; with a key NK is 4, 6
or 8 and the rows from 4*(Nr+1) on are zero. -/
structure KeySchedule.Inv (k : KeySchedule) : Prop where
  rows    : k.w.length = 60
  noKey   : k.valid = false → k.nk = 0 ∧ ∀ i, rowAt k.w i = Quad.zero
  hasKey  : k.valid = true → k.nk = 4 ∨ k.nk = 6 ∨ k.nk = 8
  restZero : k.valid = true → ∀ i, 4 * (k.rounds + 1) ≤ i → rowAt k.w i = Quad.zero

/-- A CRC engine: its hash has the engine's length and is zero until the first FINAL (rule R26), Idle means
initialised (rules R24, R130, R131), Finalized means a hash is valid (rule R134). -/
structure CrcEngine.Inv {w : Nat} (n : Nat) (e : CrcEngine w) : Prop where
  hashLen   : e.hash.length = n
  noHash    : e.hashValid = false → e.hash = zeros n
  idle      : e.lc = .idle → e.reg = e.initValue
  finalized : e.lc = .finalized → e.hashValid = true

/-- The MD5 engine (rules R27 to R30, R163): buffer and hash lengths, whole bytes counted, Idle is the initial state,
Finalized has every working register zero and a valid hash. -/
structure Md5Engine.Inv (e : Md5Engine) : Prop where
  bufLen    : e.buf.length = 64
  hashLen   : e.hash.length = 16
  noHash    : e.hashValid = false → e.hash = zeros 16
  bytes     : e.countLo.toNat % 8 = 0
  idle      : e.lc = .idle → e.st = Md5Words.initial ∧ e.countLo = 0 ∧ e.countHi = 0 ∧ e.buf = zeros 64
  finalized : e.lc = .finalized → e.hashValid = true ∧ e.st = Md5Words.zero ∧ e.countLo = 0 ∧ e.countHi = 0 ∧ e.buf = zeros 64

/-- The session (rules R36 to R38, R220, R272): Disposed has every session register zero; a session has a mode, a
padding and a key; a block is held only in a PKCS7 decrypt session that is Transforming; HOLD is zero otherwise. -/
structure Session.Inv (keyValid : Bool) (x : Session) : Prop where
  disposed : x.lc = .disposed → x = Session.cleared
  live     : x.lc ≠ .disposed → keyValid = true ∧ x.smode ≠ none ∧ x.spad ≠ none
  held     : x.holdValid = true → x.dir = .decrypt ∧ x.spad = some .pkcs7 ∧ x.lc = .transforming
  notHeld  : x.holdValid = false → x.hold = Block.zero

/-- The machine between commands. -/
structure State.Inv (s : State) : Prop where
  crc16    : s.crc16.Inv 2
  crc32    : s.crc32.Inv 4
  xcrc     : s.xcrc.Inv 2
  md5      : s.md5.Inv
  key      : s.key.Inv
  aesState : s.aesState = Block.zero
  xf       : s.xf.Inv s.key.valid
  mem      : s.mem.wf

/-- The machine has not stopped and its state is as the spec says. -/
def SafeOutcome : Result → Prop
  | .next s => s.Inv
  | .fault _ => False
  | .refused _ => False

end Sys2Proof.Machine
end

