-- ==== Sys2Proof/Certificates/Slice0/Obligations.lean ====
section
/-! DEFINITION. The statements for the provers, each `def Obligations.<Name> : Prop`, and the words of the spec they use
that the model itself does not need (`Sys2Proof.Spec`). Every docstring names the rule of spec/ it formalises. -/

namespace Sys2Proof.Spec

open Sys2Proof.Machine

/-! ### Ranges and argument errors -/

/-- The operands (d, off, cnt) name the `n` bytes from index `o` of buffer `h`, and the range lies in the buffer
(`60_exceptions.md` rule R265). -/
abbrev InRange (m : Memory) (d : Descriptor) (off cnt : Word) (h o n : Nat) : Prop :=
  d.valid = true ∧ d.handle.toNat = h ∧ off.toInt = o ∧ cnt.toInt = n ∧ ∃ len, m.bufLen h = some len ∧ o + n ≤ len

/-- A descriptor that is null or names no buffer (`20_memory.md` rule R61). -/
abbrev IsNull (m : Memory) (d : Descriptor) : Prop := d.valid = false ∨ m.bufLen d.handle.toNat = none

/-- `BufLen` of a descriptor's handle. -/
def lenOf (m : Memory) (d : Descriptor) : Nat := (m.bufLen d.handle.toNat).getD 0

/-- The error of `check_range` (rule R265), by classes in order; `none` where it passes. -/
def RangeError (m : Memory) (d : Descriptor) (off cnt : Word) : Option ArgSub → Prop
  | some .null => IsNull m d
  | some .neg => ¬IsNull m d ∧ (off.toInt < 0 ∨ cnt.toInt < 0)
  | some .bounds => ¬IsNull m d ∧ 0 ≤ off.toInt ∧ 0 ≤ cnt.toInt ∧ lenOf m d < off.toInt + cnt.toInt
  | some .overlap => False
  | some .keylen => False
  | none => ¬IsNull m d ∧ 0 ≤ off.toInt ∧ 0 ≤ cnt.toInt ∧ off.toInt + cnt.toInt ≤ lenOf m d

/-- The state after a failed command (`60_exceptions.md` rule R262). -/
def failed (s : State) (e : Err) : State := { s with response := some (.error e) }

/-- The response is a success. -/
def IsOk (t : State) : Prop := ∃ v out, t.response = some (.ok v out)

/-! ### Which command is which -/

inductive CrcVariant where
  | crc16 | crc32 | xcrc
  deriving DecidableEq, Repr

inductive CrcOp where
  | init | setInit | setXor | update | final
  deriving DecidableEq, Repr

/-- The CRC commands by engine and operation (`30_encoding.md` rule R90). -/
def crcRole : Instr → Option (CrcVariant × CrcOp)
  | .rdreg _ => none
  | .rdhash _ => none
  | .crc16Init => some (.crc16, .init)
  | .crc32Init => some (.crc32, .init)
  | .xcrcInit => some (.xcrc, .init)
  | .crc16Setinit _ => some (.crc16, .setInit)
  | .crc32Setinit _ => some (.crc32, .setInit)
  | .xcrcSetinit _ => some (.xcrc, .setInit)
  | .crc16Setxor _ => some (.crc16, .setXor)
  | .crc32Setxor _ => some (.crc32, .setXor)
  | .xcrcSetxor _ => some (.xcrc, .setXor)
  | .crc16Update _ _ _ => some (.crc16, .update)
  | .crc32Update _ _ _ => some (.crc32, .update)
  | .xcrcUpdate _ _ _ => some (.xcrc, .update)
  | .crc16Final => some (.crc16, .final)
  | .crc32Final => some (.crc32, .final)
  | .xcrcFinal => some (.xcrc, .final)
  | .md5Init => none
  | .md5Update _ _ _ => none
  | .md5Final => none
  | .aesKeyexp _ => none
  | .aesCipher _ _ _ _ => none
  | .aesInvcipher _ _ _ _ => none
  | .cfgSetmode _ => none
  | .cfgSetpad _ => none
  | .xfCreateEnc _ _ => none
  | .xfCreateDec _ _ => none
  | .xfBlock _ _ _ _ _ => none
  | .xfFinal _ _ _ => none
  | .xfDispose => none

def lcOf (s : State) : CrcVariant → HashLc
  | .crc16 => s.crc16.lc
  | .crc32 => s.crc32.lc
  | .xcrc => s.xcrc.lc

/-- The table of `60_exceptions.md` rule R270; `none` is ERR_SEQUENCE. -/
def crcArc : CrcOp → HashLc → Option HashLc
  | .init, _ => some .idle
  | .setInit, _ => some .idle
  | .setXor, lc => some lc
  | .update, .idle => some .accumulating
  | .update, .accumulating => some .accumulating
  | .update, .finalized => none
  | .final, .idle => some .finalized
  | .final, .accumulating => some .finalized
  | .final, .finalized => none

/-- What each CRC operation may write of its engine (`41_crc.md` rules R130 to R134). -/
def crcWrites {w : Nat} (e e' : CrcEngine w) : CrcOp → Prop
  | .init => e' = { e with reg := e'.reg, lc := e'.lc }
  | .setInit => e' = { e with initValue := e'.initValue, reg := e'.reg, lc := e'.lc }
  | .setXor => e' = { e with xorValue := e'.xorValue }
  | .update => e' = { e with reg := e'.reg, lc := e'.lc }
  | .final => e' = { e with hash := e'.hash, hashValid := e'.hashValid, lc := e'.lc }

inductive Md5Op where
  | init | update | final
  deriving DecidableEq, Repr

/-- The MD5 commands by operation. -/
def md5Role : Instr → Option Md5Op
  | .rdreg _ => none
  | .rdhash _ => none
  | .crc16Init => none
  | .crc32Init => none
  | .xcrcInit => none
  | .crc16Setinit _ => none
  | .crc32Setinit _ => none
  | .xcrcSetinit _ => none
  | .crc16Setxor _ => none
  | .crc32Setxor _ => none
  | .xcrcSetxor _ => none
  | .crc16Update _ _ _ => none
  | .crc32Update _ _ _ => none
  | .xcrcUpdate _ _ _ => none
  | .crc16Final => none
  | .crc32Final => none
  | .xcrcFinal => none
  | .md5Init => some .init
  | .md5Update _ _ _ => some .update
  | .md5Final => some .final
  | .aesKeyexp _ => none
  | .aesCipher _ _ _ _ => none
  | .aesInvcipher _ _ _ _ => none
  | .cfgSetmode _ => none
  | .cfgSetpad _ => none
  | .xfCreateEnc _ _ => none
  | .xfCreateDec _ _ => none
  | .xfBlock _ _ _ _ _ => none
  | .xfFinal _ _ _ => none
  | .xfDispose => none

/-- The table of rule R271; `none` is ERR_SEQUENCE. -/
def md5Arc : Md5Op → HashLc → Option HashLc
  | .init, _ => some .idle
  | .update, .idle => some .accumulating
  | .update, .accumulating => some .accumulating
  | .update, .finalized => none
  | .final, .idle => some .finalized
  | .final, .accumulating => some .finalized
  | .final, .finalized => none

/-- Where a successful command leaves `XF_LC` (`44_transform.md` rule R220). -/
def xfArc : Instr → XfLc → XfLc
  | .xfCreateEnc _ _, _ => .fresh
  | .xfCreateDec _ _, _ => .fresh
  | .xfBlock _ _ _ _ _, _ => .transforming
  | .xfFinal _ _ _, _ => .finalized
  | .xfDispose, _ => .disposed
  | _, lc => lc

/-- The lifecycle states in which a command of the session family can succeed (rule R220). -/
abbrev xfAllowed : Instr → XfLc → Prop
  | .xfCreateEnc _ _, lc => lc = .disposed
  | .xfCreateDec _ _, lc => lc = .disposed
  | .aesKeyexp _, lc => lc = .disposed
  | .xfBlock _ _ _ _ _, lc => lc = .fresh ∨ lc = .transforming
  | .xfFinal _ _ _, lc => lc = .fresh ∨ lc = .transforming
  | _, _ => True

/-- The error a command of the session family meets in a state that does not allow it (rules R220, R266). -/
def xfRefusal : Instr → XfLc → Err
  | .xfBlock _ _ _ _ _, .disposed => .disposed
  | .xfFinal _ _ _, .disposed => .disposed
  | _, _ => .sequence

/-- The table of `60_exceptions.md` rule R263, ERR_ILLEGAL apart: which errors a command can raise. -/
def canRaise (e : Err) : Instr → Bool
  | .rdreg _ => false
  | .rdhash _ => e = .sequence
  | .crc16Init => false
  | .crc32Init => false
  | .xcrcInit => false
  | .crc16Setinit _ => false
  | .crc32Setinit _ => false
  | .xcrcSetinit _ => false
  | .crc16Setxor _ => false
  | .crc32Setxor _ => false
  | .xcrcSetxor _ => false
  | .crc16Update _ _ _ => e = .arg .null || e = .arg .neg || e = .arg .bounds || e = .sequence
  | .crc32Update _ _ _ => e = .arg .null || e = .arg .neg || e = .arg .bounds || e = .sequence
  | .xcrcUpdate _ _ _ => e = .arg .null || e = .arg .neg || e = .arg .bounds || e = .sequence
  | .crc16Final => e = .sequence
  | .crc32Final => e = .sequence
  | .xcrcFinal => e = .sequence
  | .md5Init => false
  | .md5Update _ _ _ => e = .arg .null || e = .arg .neg || e = .arg .bounds || e = .sequence
  | .md5Final => e = .sequence
  | .aesKeyexp _ => e = .arg .null || e = .arg .keylen || e = .sequence
  | .aesCipher _ _ _ _ => e = .sequence
  | .aesInvcipher _ _ _ _ => e = .sequence
  | .cfgSetmode _ => e = .notSupported
  | .cfgSetpad _ => e = .notSupported
  | .xfCreateEnc _ _ => e = .arg .null || e = .arg .keylen || e = .sequence
  | .xfCreateDec _ _ => e = .arg .null || e = .arg .keylen || e = .sequence
  | .xfBlock _ _ _ _ _ =>
    e = .arg .null || e = .arg .neg || e = .arg .bounds || e = .arg .overlap || e = .length || e = .disposed || e = .sequence
  | .xfFinal _ _ _ =>
    e = .arg .null || e = .arg .neg || e = .arg .bounds || e = .length || e = .disposed || e = .sequence || e = .padding
  | .xfDispose => false

/-- The descriptors a command names. -/
def descriptors : Instr → List Descriptor
  | .crc16Update d _ _ => [d]
  | .crc32Update d _ _ => [d]
  | .xcrcUpdate d _ _ => [d]
  | .md5Update d _ _ => [d]
  | .aesKeyexp d => [d]
  | .xfCreateEnc d e => [d, e]
  | .xfCreateDec d e => [d, e]
  | .xfBlock d _ _ e _ => [d, e]
  | .xfFinal d _ _ => [d]
  | _ => []

/-- The registers of the block alone: host side blanked. -/
def registers (s : State) : State := { s with mem := ⟨[], []⟩, link := [], moves := [], response := none }

/-- Two memories agree on the buffers that descriptors name. -/
abbrev SameBuffers (ds : List Descriptor) (m m' : Memory) : Prop :=
  ∀ d ∈ ds, d.valid = true → m.bufLen d.handle.toNat = m'.bufLen d.handle.toNat ∧
    ∀ j, j < lenOf m d → m.byte d.handle.toNat j = m'.byte d.handle.toNat j

/-! ### Illegal transactions (`30_encoding.md` rule R91), on the number of the command word -/

def unitOf (cw : Word) : Nat := cw.toNat / 2 ^ 28
def opOf (cw : Word) : Nat := cw.toNat / 2 ^ 24 % 16
def selOf (cw : Word) : Nat := cw.toNat / 2 ^ 20 % 16
def rsvOf (cw : Word) : Nat := cw.toNat / 2 ^ 16 % 16
def immOf (cw : Word) : Nat := cw.toNat % 2 ^ 16

/-- The (UNIT, OP) pairs of the table in rule R90. -/
def opcodePairs : List (Nat × Nat) :=
  [(0, 0), (0, 1), (1, 0), (1, 1), (1, 2), (1, 3), (1, 4), (2, 0), (2, 3), (2, 4), (3, 0), (3, 1), (3, 2)] ++
  [(4, 0), (4, 1), (4, 2), (4, 3), (4, 4), (4, 5), (4, 6)]

/-- The register numbers of `10_state.md` rule R39. -/
abbrev isRegister (n : Nat) : Prop := n ≤ 4 ∨ (0x10 ≤ n ∧ n ≤ 0x1B) ∨ n = 0x20 ∨ n = 0x21 ∨ n = 0x30

/-- A command word of an illegal transaction. -/
abbrev IllegalWord (cw : Word) : Prop :=
  5 ≤ unitOf cw ∨
  (unitOf cw, opOf cw) ∉ opcodePairs ∨
  (unitOf cw = 1 ∧ 3 ≤ selOf cw) ∨
  (unitOf cw = 0 ∧ opOf cw = 1 ∧ 4 ≤ selOf cw) ∨
  (unitOf cw ≠ 1 ∧ ¬(unitOf cw = 0 ∧ opOf cw = 1) ∧ selOf cw ≠ 0) ∨
  rsvOf cw ≠ 0 ∨
  (¬(unitOf cw = 0 ∧ opOf cw = 0) ∧ ¬(unitOf cw = 4 ∧ opOf cw ≤ 1) ∧ immOf cw ≠ 0) ∨
  (unitOf cw = 0 ∧ opOf cw = 0 ∧ ¬isRegister (immOf cw)) ∨
  (unitOf cw = 4 ∧ opOf cw ≤ 1 ∧ (immOf cw = 0 ∨ 5 < immOf cw))

/-- A SETINIT or SETXOR of a 16-bit engine. -/
abbrev TakesImm16 (cw : Word) : Prop := unitOf cw = 1 ∧ (opOf cw = 1 ∨ opOf cw = 2) ∧ (selOf cw = 0 ∨ selOf cw = 2)

/-! ### CRC catalogue forms (`41_crc.md` rule R124) and generating formulas (rules R127 to R129) -/

/-- One bit of an MSB-first shift register. -/
def msbBit (poly r : BitVec 16) (bit : Bool) : BitVec 16 := (r <<< 1) ^^^ (if r.getLsbD 15 ^^ bit then poly else 0)

/-- One byte, high bit first. -/
def msbByte (poly r : BitVec 16) (b : Byte) : BitVec 16 :=
  [7, 6, 5, 4, 3, 2, 1, 0].foldl (fun r k => msbBit poly r (b.getLsbD k)) r

/-- One bit of a reflected (LSB-first) shift register. -/
def lsbBit {w : Nat} (poly r : BitVec w) (bit : Bool) : BitVec w := (r >>> 1) ^^^ (if r.getLsbD 0 ^^ bit then poly else 0)

/-- One byte, low bit first. -/
def lsbByte {w : Nat} (poly r : BitVec w) (b : Byte) : BitVec w :=
  [0, 1, 2, 3, 4, 5, 6, 7].foldl (fun r k => lsbBit poly r (b.getLsbD k)) r

def bswap16 (x : BitVec 16) : BitVec 16 := (x <<< 8) ||| (x >>> 8)

/-- Eight iterations of a step. -/
def eight {α : Type} (f : α → α) (a : α) : α := f (f (f (f (f (f (f (f a)))))))

/-! ### MD5 of a whole message (RFC 1321 form of `42_md5.md` rules R157 to R163) -/

/-- The transform over the first `k` 64-byte blocks of `m`. -/
def md5Blocks (m : List Byte) : Nat → Md5Words
  | 0 => ⟨0x67452301, 0xefcdab89, 0x98badcfe, 0x10325476⟩
  | k + 1 => md5Transform (md5Blocks m k) ((m.drop (64 * k)).take 64)

/-- The little-endian bytes of a number. -/
def leBytes (n x : Nat) : List Byte := (List.range n).map fun k => BitVec.ofNat 8 (x / 256 ^ k)

/-- The padded message: 0x80, zeros to length 56 mod 64, the bit length modulo 2^64. -/
def md5Padded (m : List Byte) : List Byte :=
  m ++ [0x80] ++ List.replicate ((119 - m.length % 64) % 64) 0 ++ leBytes 8 (8 * m.length % 2 ^ 64)

/-- The digest of a message, in one go. -/
def md5 (m : List Byte) : List Byte :=
  let v := md5Blocks (md5Padded m) ((md5Padded m).length / 64)
  leBytes 4 v.a.toNat ++ leBytes 4 v.b.toNat ++ leBytes 4 v.c.toNat ++ leBytes 4 v.d.toNat

/-- The engine has taken exactly the bytes `m` since its last INIT (`10_state.md` rules R27 to R29). -/
def Md5Holds (m : List Byte) (e : Md5Engine) : Prop :=
  e.buf.length = 64 ∧ e.st = md5Blocks m (m.length / 64) ∧
  e.countHi.toNat * 2 ^ 32 + e.countLo.toNat = 8 * m.length % 2 ^ 64 ∧
  e.buf.take (m.length % 64) = m.drop (64 * (m.length / 64))

/-! ### GF(2^8) (`43_aes_core.md` rule R182) -/

/-- Multiplication by x modulo x^8 + x^4 + x^3 + x + 1. -/
def xtime (b : Byte) : Byte := (b <<< 1) ^^^ (if b.getLsbD 7 then 0x1b else 0)

/-- The product in GF(2^8): the sum of `xtime^k a` over the set bits k of b. -/
def gfMul (a b : Byte) : Byte :=
  ([0, 1, 2, 3, 4, 5, 6, 7].foldl (fun (acc : Byte × Byte) k => (if b.getLsbD k then acc.1 ^^^ acc.2 else acc.1, xtime acc.2))
    (0, a)).1

/-- `v^254`, which is the inverse of v, and 0 for 0. -/
def gfInv (v : Byte) : Byte :=
  let v2 := gfMul v v
  let v4 := gfMul v2 v2
  let v8 := gfMul v4 v4
  let v16 := gfMul v8 v8
  let v32 := gfMul v16 v16
  let v64 := gfMul v32 v32
  let v128 := gfMul v64 v64
  gfMul v128 (gfMul v64 (gfMul v32 (gfMul v16 (gfMul v8 (gfMul v4 v2)))))

def rotl8 (b : Byte) (n : Nat) : Byte := (b <<< n) ||| (b >>> (8 - n))

/-- `A(b)` of rule R182. -/
def affine (b : Byte) : Byte := b ^^^ rotl8 b 1 ^^^ rotl8 b 2 ^^^ rotl8 b 3 ^^^ rotl8 b 4 ^^^ 0x63

/-! ### Chaining (`44_transform.md` rules R228 to R230) -/

/-- The feedback register before block j of an encryption of the blocks p 0, p 1, …. -/
def encFb (k : KeySchedule) (mode : CipherMode) (fb : Block) (p : Nat → Block) : Nat → Block
  | 0 => fb
  | j + 1 =>
    match mode with
    | .cbc => cipher k ((p j).xor (encFb k mode fb p j))
    | .ecb => encFb k mode fb p j

/-- Ciphertext block j. -/
def encOut (k : KeySchedule) (mode : CipherMode) (fb : Block) (p : Nat → Block) (j : Nat) : Block :=
  match mode with
  | .cbc => cipher k ((p j).xor (encFb k mode fb p j))
  | .ecb => cipher k (p j)

/-- The feedback register before block j of a decryption of the blocks c 0, c 1, …: the ciphertext block before. -/
def decFb (mode : CipherMode) (fb : Block) (c : Nat → Block) (j : Nat) : Block :=
  match mode with
  | .cbc => if j = 0 then fb else c (j - 1)
  | .ecb => fb

/-- Plaintext block j. -/
def decOut (k : KeySchedule) (mode : CipherMode) (fb : Block) (c : Nat → Block) (j : Nat) : Block :=
  match mode with
  | .cbc => (invCipher k (c j)).xor (decFb mode fb c j)
  | .ecb => invCipher k (c j)

/-- Block j of a byte sequence. -/
def blockAt (l : List Byte) (j : Nat) : Block := Block.load ((l.drop (16 * j)).take 16)

/-- The bytes `l` are the blocks b 0 to b (n-1), in order. -/
def IsBlocks (l : List Byte) (n : Nat) (b : Nat → Block) : Prop :=
  l.length = 16 * n ∧ ∀ j, j < n → (l.drop (16 * j)).take 16 = (b j).bytes

/-- The ciphertext waiting in a decrypt session, then the new bytes (rules R231, R236). -/
def waiting (x : Session) (data : List Byte) : List Byte := (if x.holdValid then x.hold.bytes else []) ++ data

/-- The padded plaintext (rule R234). -/
def Padded : PaddingMode → List Byte → List Byte → Prop
  | .pkcs7, data, q => q = data ++ List.replicate (16 - data.length % 16) (BitVec.ofNat 8 (16 - data.length % 16))
  | .zeros, data, q => ∃ n, q = data ++ List.replicate n 0 ∧ n < 16 ∧ q.length % 16 = 0
  | .noPad, data, q => q = data ∧ data.length % 16 = 0

/-- The operands of XF_BLOCK pass every check of rule R232: `n` blocks from index `i` of buffer `hin`, output from
index `o` of buffer `hout`. -/
abbrev BlockOperands (m : Memory) (din : Descriptor) (inOff inCount : Word) (dout : Descriptor) (outOff : Word)
    (hin i n hout o : Nat) : Prop :=
  InRange m din inOff inCount hin i (16 * n) ∧ InRange m dout outOff inCount hout o (16 * n) ∧
  (hin = hout → i + 16 * n ≤ o ∨ o + 16 * n ≤ i ∨ n = 0)

/-- The session is open (rule R220). -/
abbrev IsOpen (x : Session) : Prop := x.lc = .fresh ∨ x.lc = .transforming

end Sys2Proof.Spec

open Sys2Proof Sys2Proof.Machine Sys2Proof.Spec

/-! ## Encoding and the step -/

/-- Decoding the words of a command gives the command, whatever follows them (`30_encoding.md` rules R81 to R90). -/
def Obligations.DecodeOfEncodeIsTheCommand : Prop :=
  ∀ (i : Instr) (rest : List Word), decode (encode i ++ rest) = .command i rest

/-- Every word has one meaning: what decodes to a command is that command's encoding (rules R81 to R90). -/
def Obligations.DecodedWordsAreTheEncoding : Prop :=
  ∀ (ws rest : List Word) (i : Instr), decode ws = .command i rest → ws = encode i ++ rest

/-- Rule R93: the length of a transaction follows from UNIT and OP alone, the formats have the listed lengths, an
illegal command word is one word, and an unfinished transaction can be finished. -/
def Obligations.TransactionLengthFromUnitAndOp : Prop :=
  (∀ (ws rest : List Word) (i : Instr), decode ws = .command i rest → ws.length = i.format.words + rest.length) ∧
  (∀ (cw cw' : Word) (ws ws' rest rest' : List Word) (i i' : Instr), unitOf cw = unitOf cw' → opOf cw = opOf cw' →
    decode (cw :: ws) = .command i rest → decode (cw' :: ws') = .command i' rest' → i.format = i'.format) ∧
  ([Format.Z, .I, .K1, .K, .B, .X, .T].map Format.words = [1, 2, 2, 3, 4, 5, 6]) ∧
  (∀ (cw : Word) (ws rest : List Word) (why : Illegal), decode (cw :: ws) = .illegal why rest → rest = ws) ∧
  (∀ (cw : Word) (ws : List Word), decode (cw :: ws) = .incomplete →
    ∃ (more : List Word) (i : Instr), decode (cw :: ws ++ more) = .command i [])

/-- Words written out from the table of rule R90 and from the examples of `95_test_vectors.md`, one for each family. -/
def Obligations.TableWordsDecode : Prop :=
  decode [0x00000004] = .command (.rdreg 4) [] ∧
  decode [0x01300000] = .command (.rdhash 3) [] ∧
  decode [0x13100000, 0x80000003, 0x00000000, 0x00000003] = .command (.crc32Update ⟨true, 3⟩ 0 3) [] ∧
  decode [0x11000000, 0x0000ffff] = .command (.crc16Setinit 0xffff) [] ∧
  decode [0x24000000] = .command .md5Final [] ∧
  decode [0x31000000, 0x33221100, 0x77665544, 0xbbaa9988, 0xffeeddcc] =
    .command (.aesCipher 0x33221100 0x77665544 0xbbaa9988 0xffeeddcc) [] ∧
  decode [0x40000002] = .command (.cfgSetmode 2) [] ∧
  decode [0x44000000, 0x80000004, 0xffffffff, 0x00000010, 0x80000005, 0x00000000] =
    .command (.xfBlock ⟨true, 4⟩ 0xffffffff 16 ⟨true, 5⟩ 0) [] ∧
  decode [0x43000000, 0x80000002, 0x00000000] = .command (.xfCreateDec ⟨true, 2⟩ ⟨false, 0⟩) []

/-- A step runs the command at the front of the link, its words consumed (`00_scope.md` rule R8, `30_encoding.md` rule
R93); with no complete transaction there, the host moves, and with no host move nothing changes. That the host's turn
is a step of its own, and the waiting, are the model's choice: log entries 1 and 3. -/
def Obligations.StepRunsTheCommandOnTheLink : Prop :=
  (∀ (s : State) (i : Instr) (rest : List Word), s.link = encode i ++ rest → step s = exec i { s with link := rest }) ∧
  (∀ (s : State) (i : Instr) (rest : List Word), decode s.link = .command i rest → step s = exec i { s with link := rest }) ∧
  (∀ (s : State) (m : HostMove) (ms : List HostMove), decode s.link = .incomplete → s.moves = m :: ms →
    step s = hostMove { s with moves := ms } m) ∧
  (∀ s : State, decode s.link = .incomplete → s.moves = [] → step s = .next s)

/-- Rule R91: exactly the listed transactions are answered ERR_ILLEGAL, without any effect but their words consumed. How
many words an illegal operand word takes with it is the model's choice: log entry 10. -/
def Obligations.ExactlyTheIllegalTransactionsAreRefused : Prop :=
  ∀ (s : State) (cw : Word) (ws : List Word), s.link = cw :: ws →
    (IllegalWord cw → step s = .next { s with link := ws, response := some (.error .illegal) }) ∧
    (∀ (imm : Word) (rest : List Word), ¬IllegalWord cw → TakesImm16 cw → ws = imm :: rest → 2 ^ 16 ≤ imm.toNat →
      step s = .next { s with link := rest, response := some (.error .illegal) }) ∧
    (∀ t : State, s.response ≠ some (.error .illegal) → step s = .next t → t.response = some (.error .illegal) →
      IllegalWord cw ∨ (TakesImm16 cw ∧ ∃ imm rest, ws = imm :: rest ∧ 2 ^ 16 ≤ imm.toNat))

/-! ## Responses and errors -/

/-- Rules R87, R88: an OK response is RSP0 = 0, RETVAL, and the bytes packed low byte first into ceil(len/4) words with
unused high bytes 0; the inline block of a command is its four words, low byte first. -/
def Obligations.WordsCarryBytesLowByteFirst : Prop :=
  (∀ (v : Word) (out : List Byte), ∃ ws : List Word, (Response.ok v out).words = 0 :: v :: ws ∧
    ws.length = (out.length + 3) / 4 ∧
    ∀ k, k < 4 * ws.length → (ws.getD (k / 4) 0).extractLsb' (8 * (k % 4)) 8 = out.getD k 0) ∧
  ∀ d0 d1 d2 d3 : Word, (Block.ofWords d0 d1 d2 d3).bytes.length = 16 ∧
    ∀ k, k < 16 → (Block.ofWords d0 d1 d2 d3).bytes.getD k 0 = ([d0, d1, d2, d3].getD (k / 4) 0).extractLsb' (8 * (k % 4)) 8

/-- Rule R261: the words of every error response. -/
def Obligations.ErrorResponseWords : Prop :=
  (Response.error (.arg .null)).words = [0x00000101, 0] ∧ (Response.error (.arg .neg)).words = [0x00000201, 0] ∧
  (Response.error (.arg .bounds)).words = [0x00000301, 0] ∧ (Response.error (.arg .overlap)).words = [0x00000401, 0] ∧
  (Response.error (.arg .keylen)).words = [0x00000501, 0] ∧ (Response.error .notSupported).words = [0x00000002, 0] ∧
  (Response.error .length).words = [0x00000003, 0] ∧ (Response.error .disposed).words = [0x00000004, 0] ∧
  (Response.error .sequence).words = [0x00000005, 0] ∧ (Response.error .padding).words = [0x00000006, 0] ∧
  (Response.error .illegal).words = [0x00000007, 0]

/-- Rule R260: every command, in every state, ends with exactly one response, OK or an error; none stops the machine. -/
def Obligations.EveryCommandGetsAResponse : Prop :=
  ∀ (i : Instr) (s : State), ∃ (t : State) (r : Response), exec i s = .next t ∧ t.response = some r

/-- Rule R262: a command that answers an error changes no register and no host byte. -/
def Obligations.FailedCommandChangesNothing : Prop :=
  ∀ (i : Instr) (s t : State) (e : Err), exec i s = .next t → t.response = some (.error e) → t = failed s e

/-- Rule R263 (its "can raise" table read as a limit): no command raises an error outside its row, ERR_ILLEGAL apart,
which it raises only for operand values of rule R91. -/
def Obligations.ErrorsStayInTheirTable : Prop :=
  ∀ (i : Instr) (s t : State) (e : Err), exec i s = .next t → t.response = some (.error e) →
    canRaise e i = true ∨ (e = .illegal ∧ i.wellFormed = false)

/-- Rules R265, R133, R165, R236, R266: the (buffer, offset, count) errors, NULL before NEG before BOUNDS, lifecycle
errors before all of them, for every command of format B. -/
def Obligations.RangeErrorsInOrder : Prop :=
  ∀ (s : State) (d : Descriptor) (off cnt : Word) (sub : ArgSub), RangeError s.mem d off cnt (some sub) →
    (s.crc16.lc ≠ .finalized → exec (.crc16Update d off cnt) s = .next (failed s (.arg sub))) ∧
    (s.crc16.lc = .finalized → exec (.crc16Update d off cnt) s = .next (failed s .sequence)) ∧
    (s.crc32.lc ≠ .finalized → exec (.crc32Update d off cnt) s = .next (failed s (.arg sub))) ∧
    (s.crc32.lc = .finalized → exec (.crc32Update d off cnt) s = .next (failed s .sequence)) ∧
    (s.xcrc.lc ≠ .finalized → exec (.xcrcUpdate d off cnt) s = .next (failed s (.arg sub))) ∧
    (s.xcrc.lc = .finalized → exec (.xcrcUpdate d off cnt) s = .next (failed s .sequence)) ∧
    (s.md5.lc ≠ .finalized → exec (.md5Update d off cnt) s = .next (failed s (.arg sub))) ∧
    (s.md5.lc = .finalized → exec (.md5Update d off cnt) s = .next (failed s .sequence)) ∧
    (IsOpen s.xf → exec (.xfFinal d off cnt) s = .next (failed s (.arg sub))) ∧
    (s.xf.lc = .disposed → exec (.xfFinal d off cnt) s = .next (failed s .disposed)) ∧
    (s.xf.lc = .finalized → exec (.xfFinal d off cnt) s = .next (failed s .sequence))

/-! ## Whole-machine rules -/

/-- The invariants of Safety.lean hold after reset (`10_state.md` rule R46). -/
def Obligations.InvariantAtReset : Prop := State.reset.Inv

/-- Every step of the block or of the host keeps them. -/
def Obligations.InvariantKeptByEveryStep : Prop := ∀ s t : State, s.Inv → step s = .next t → t.Inv

/-- Rule R301: the response and the registers after a command are functions of the registers before it, its operands
and the contents of the buffers it names; nothing else enters, and the named buffers stay equal. -/
def Obligations.NothingElseEntersACommand : Prop :=
  ∀ (i : Instr) (s s' t t' : State), s.mem.wf → s'.mem.wf → registers s = registers s' →
    SameBuffers (descriptors i) s.mem s'.mem → exec i s = .next t → exec i s' = .next t' →
    t.response = t'.response ∧ registers t = registers t' ∧ SameBuffers (descriptors i) t.mem t'.mem

/-- Rules R63, R67: only XF_BLOCK writes host memory, and no command changes which buffers exist or how long they are. -/
def Obligations.OnlyXfBlockWritesHostMemory : Prop :=
  ∀ (i : Instr) (s t : State), exec i s = .next t → t.mem.bufs = s.mem.bufs ∧
    (t.mem = s.mem ∨ ∃ din inOff inCount dout outOff, i = .xfBlock din inOff inCount dout outOff)

/-- Rules R31, R272: the key schedule cannot change while a session exists, except by XF_DISPOSE; KEY_VALID rises only by
AES_KEYEXP and XF_CREATE_* with no session, and falls only by XF_DISPOSE. -/
def Obligations.KeyScheduleImmutableInASession : Prop :=
  ∀ (i : Instr) (s t : State), exec i s = .next t →
    (s.xf.lc ≠ .disposed → i ≠ .xfDispose → t.key = s.key) ∧
    (s.key.valid = false → t.key.valid = true → s.xf.lc = .disposed ∧
      ((∃ k, i = .aesKeyexp k) ∨ (∃ k v, i = .xfCreateEnc k v) ∨ ∃ k v, i = .xfCreateDec k v)) ∧
    (s.key.valid = true → t.key.valid = false → i = .xfDispose)

/-- Rule R220: every arc of the session machine, and no other: where a successful command leaves XF_LC, from where it can
succeed, and which error it meets elsewhere. -/
def Obligations.SessionLifecycleArcs : Prop :=
  (∀ (i : Instr) (s t : State), exec i s = .next t → IsOk t → xfAllowed i s.xf.lc ∧ t.xf.lc = xfArc i s.xf.lc) ∧
  (∀ (i : Instr) (s t : State), exec i s = .next t → ¬IsOk t → t.xf.lc = s.xf.lc) ∧
  (∀ (i : Instr) (s : State), ¬xfAllowed i s.xf.lc → exec i s = .next (failed s (xfRefusal i s.xf.lc))) ∧
  (∀ s : State, ∃ t, exec .xfDispose s = .next t ∧ IsOk t ∧ t.xf.lc = .disposed)

/-- Rule R270: every arc of the three CRC engines. -/
def Obligations.CrcLifecycleArcs : Prop :=
  ∀ (i : Instr) (s t : State) (v : CrcVariant) (op : CrcOp), crcRole i = some (v, op) → exec i s = .next t →
    (crcArc op (lcOf s v) = none → t = failed s .sequence) ∧
    (∀ lc, crcArc op (lcOf s v) = some lc → IsOk t → lcOf t v = lc) ∧
    (¬IsOk t → lcOf t v = lcOf s v)

/-- Rule R271: every arc of the MD5 engine. -/
def Obligations.Md5LifecycleArcs : Prop :=
  ∀ (i : Instr) (s t : State) (op : Md5Op), md5Role i = some op → exec i s = .next t →
    (md5Arc op s.md5.lc = none → t = failed s .sequence) ∧
    (∀ lc, md5Arc op s.md5.lc = some lc → IsOk t → t.md5.lc = lc) ∧
    (¬IsOk t → t.md5.lc = s.md5.lc)

/-- Rules R26, R30, R251: a HASH register changes only by its engine's FINAL, and a valid hash stays valid. -/
def Obligations.HashKeptUntilTheNextFinal : Prop :=
  ∀ (i : Instr) (s t : State), exec i s = .next t →
    (i ≠ .crc16Final → t.crc16.hash = s.crc16.hash ∧ t.crc16.hashValid = s.crc16.hashValid) ∧
    (i ≠ .crc32Final → t.crc32.hash = s.crc32.hash ∧ t.crc32.hashValid = s.crc32.hashValid) ∧
    (i ≠ .xcrcFinal → t.xcrc.hash = s.xcrc.hash ∧ t.xcrc.hashValid = s.xcrc.hashValid) ∧
    (i ≠ .md5Final → t.md5.hash = s.md5.hash ∧ t.md5.hashValid = s.md5.hashValid) ∧
    (s.crc16.hashValid = true → t.crc16.hashValid = true) ∧ (s.crc32.hashValid = true → t.crc32.hashValid = true) ∧
    (s.xcrc.hashValid = true → t.xcrc.hashValid = true) ∧ (s.md5.hashValid = true → t.md5.hashValid = true)

/-! ## Frames -/

/-- Rules R43, R125, R130 to R134: a CRC command writes only its own engine, and of it only what its rule names; every
other register and every host byte is unchanged. -/
def Obligations.CrcCommandFrames : Prop :=
  ∀ (i : Instr) (s t : State) (v : CrcVariant) (op : CrcOp), crcRole i = some (v, op) → exec i s = .next t →
    (v = .crc16 → t = { s with crc16 := t.crc16, response := t.response } ∧ crcWrites s.crc16 t.crc16 op) ∧
    (v = .crc32 → t = { s with crc32 := t.crc32, response := t.response } ∧ crcWrites s.crc32 t.crc32 op) ∧
    (v = .xcrc → t = { s with xcrc := t.xcrc, response := t.response } ∧ crcWrites s.xcrc t.xcrc op) ∧
    (∀ h j, t.mem.byte h j = s.mem.byte h j)

/-- Rules R43, R164 to R166: MD5_INIT and MD5_UPDATE write the working registers of the MD5 engine and its lifecycle,
MD5_FINAL also its hash; every other register and every host byte is unchanged. -/
def Obligations.Md5CommandFrames : Prop :=
  ∀ (i : Instr) (s t : State), md5Role i ≠ none → exec i s = .next t →
    t = { s with md5 := t.md5, response := t.response } ∧
    (i ≠ .md5Final → t.md5.hash = s.md5.hash ∧ t.md5.hashValid = s.md5.hashValid) ∧
    (∀ h j, t.mem.byte h j = s.mem.byte h j)

/-- Rules R200 to R202, R222, R223, R226, R227, R236, R240, R250, R251: what the AES, configuration, session and system
commands may write, XF_BLOCK apart; every host byte is unchanged. -/
def Obligations.CipherAndSystemFrames : Prop :=
  ∀ s t : State,
    (∀ n, exec (.rdreg n) s = .next t → t = { s with response := t.response }) ∧
    (∀ e, exec (.rdhash e) s = .next t → t = { s with response := t.response }) ∧
    (∀ k, exec (.aesKeyexp k) s = .next t → t = { s with key := t.key, response := t.response }) ∧
    (∀ d0 d1 d2 d3, exec (.aesCipher d0 d1 d2 d3) s = .next t → s.aesState = Block.zero →
      t = { s with response := t.response }) ∧
    (∀ d0 d1 d2 d3, exec (.aesInvcipher d0 d1 d2 d3) s = .next t → s.aesState = Block.zero →
      t = { s with response := t.response }) ∧
    (∀ m, exec (.cfgSetmode m) s = .next t → t = { s with mode := t.mode, response := t.response }) ∧
    (∀ p, exec (.cfgSetpad p) s = .next t → t = { s with padding := t.padding, response := t.response }) ∧
    (∀ k v, exec (.xfCreateEnc k v) s = .next t → t = { s with key := t.key, xf := t.xf, response := t.response }) ∧
    (∀ k v, exec (.xfCreateDec k v) s = .next t → t = { s with key := t.key, xf := t.xf, response := t.response }) ∧
    (∀ d off cnt, exec (.xfFinal d off cnt) s = .next t → s.aesState = Block.zero →
      t = { s with xf := { s.xf with lc := t.xf.lc, fb := t.xf.fb, hold := t.xf.hold, holdValid := t.xf.holdValid }
                   response := t.response }) ∧
    (exec .xfDispose s = .next t → t = { s with key := t.key, xf := t.xf, response := t.response })

/-- Rules R63, R232, R233: XF_BLOCK writes XF_LC, FB, HOLD and HOLD_VALID and the RETVAL bytes from OUTOFF of the output
buffer; every other register and every other host byte is unchanged. -/
def Obligations.XfBlockFrame : Prop :=
  ∀ (s t : State) (din dout : Descriptor) (inOff inCount outOff v : Word), s.mem.wf → s.aesState = Block.zero →
    exec (.xfBlock din inOff inCount dout outOff) s = .next t → t.response = some (.ok v []) →
    t = { s with xf := { s.xf with lc := t.xf.lc, fb := t.xf.fb, hold := t.xf.hold, holdValid := t.xf.holdValid }
                 mem := t.mem, response := t.response } ∧
    t.mem.wf ∧ (∀ h, t.mem.bufLen h = s.mem.bufLen h) ∧
    ∀ h j : Nat, j < 2 ^ 31 →
      ¬(h = dout.handle.toNat ∧ outOff.toInt ≤ (j : Int) ∧ (j : Int) < outOff.toInt + v.toNat) →
      t.mem.byte h j = s.mem.byte h j

/-! ## CRC engines -/

/-- Rules R130, R131, R132: INIT, SETINIT and SETXOR of the three engines, with the whole state after them. -/
def Obligations.CrcInitAndParameters : Prop :=
  ∀ (s : State) (imm : Word),
    exec .crc16Init s = .next { s with crc16 := { s.crc16 with reg := s.crc16.initValue, lc := .idle }, response := some (.ok 0 []) } ∧
    exec .crc32Init s = .next { s with crc32 := { s.crc32 with reg := s.crc32.initValue, lc := .idle }, response := some (.ok 0 []) } ∧
    exec .xcrcInit s = .next { s with xcrc := { s.xcrc with reg := s.xcrc.initValue, lc := .idle }, response := some (.ok 0 []) } ∧
    exec (.crc32Setinit imm) s =
      .next { s with crc32 := { s.crc32 with initValue := imm, reg := imm, lc := .idle }, response := some (.ok 0 []) } ∧
    exec (.crc32Setxor imm) s = .next { s with crc32 := { s.crc32 with xorValue := imm }, response := some (.ok 0 []) } ∧
    (imm.toNat < 2 ^ 16 →
      exec (.crc16Setinit imm) s = .next { s with
        crc16 := { s.crc16 with initValue := BitVec.ofNat 16 imm.toNat, reg := BitVec.ofNat 16 imm.toNat, lc := .idle }
        response := some (.ok 0 []) } ∧
      exec (.xcrcSetinit imm) s = .next { s with
        xcrc := { s.xcrc with initValue := BitVec.ofNat 16 imm.toNat, reg := BitVec.ofNat 16 imm.toNat, lc := .idle }
        response := some (.ok 0 []) } ∧
      exec (.crc16Setxor imm) s = .next { s with
        crc16 := { s.crc16 with xorValue := BitVec.ofNat 16 imm.toNat }, response := some (.ok 0 []) } ∧
      exec (.xcrcSetxor imm) s = .next { s with
        xcrc := { s.xcrc with xorValue := BitVec.ofNat 16 imm.toNat }, response := some (.ok 0 []) }) ∧
    (2 ^ 16 ≤ imm.toNat →
      exec (.crc16Setinit imm) s = .next (failed s .illegal) ∧ exec (.xcrcSetinit imm) s = .next (failed s .illegal) ∧
      exec (.crc16Setxor imm) s = .next (failed s .illegal) ∧ exec (.xcrcSetxor imm) s = .next (failed s .illegal))

/-- Rules R121, R122, R133: an UPDATE steps the register once per byte of the range, in order, and does nothing else but
move the engine to Accumulating. -/
def Obligations.CrcUpdateStepsOncePerByte : Prop :=
  ∀ (s : State) (d : Descriptor) (off cnt : Word) (h o n : Nat) (byteAt : Nat → Byte), InRange s.mem d off cnt h o n →
    (∀ k, byteAt k = s.mem.byte h (o + k)) →
    (s.crc16.lc ≠ .finalized → ∃ r : Nat → BitVec 16, r 0 = s.crc16.reg ∧
      (∀ k, r (k + 1) = (r k <<< 8) ^^^ tCrc16 (BitVec.ofNat 8 ((r k).toNat / 256) ^^^ byteAt k)) ∧
      exec (.crc16Update d off cnt) s = .next { s with
        crc16 := { s.crc16 with lc := .accumulating, reg := r n }, response := some (.ok 0 []) }) ∧
    (s.xcrc.lc ≠ .finalized → ∃ r : Nat → BitVec 16, r 0 = s.xcrc.reg ∧
      (∀ k, r (k + 1) = (r k <<< 8) ^^^ tXcrc (BitVec.ofNat 8 ((r k).toNat / 256) ^^^ byteAt k)) ∧
      exec (.xcrcUpdate d off cnt) s = .next { s with
        xcrc := { s.xcrc with lc := .accumulating, reg := r n }, response := some (.ok 0 []) }) ∧
    (s.crc32.lc ≠ .finalized → ∃ r : Nat → Word, r 0 = s.crc32.reg ∧
      (∀ k, r (k + 1) = (r k >>> 8) ^^^ tCrc32 (BitVec.ofNat 8 ((r k).toNat % 256) ^^^ byteAt k)) ∧
      exec (.crc32Update d off cnt) s = .next { s with
        crc32 := { s.crc32 with lc := .accumulating, reg := r n }, response := some (.ok 0 []) })

/-- Rules R126, R134: FINAL emits REG ^ XORVALUE, low byte first for the 16-bit engines and high byte first for CRC-32,
keeps it in HASH, and leaves REG; from Finalized it is refused. -/
def Obligations.CrcFinalEmitsTheResult : Prop :=
  ∀ (s : State) (x y z : Nat), x = (s.crc16.reg ^^^ s.crc16.xorValue).toNat → y = (s.crc32.reg ^^^ s.crc32.xorValue).toNat →
    z = (s.xcrc.reg ^^^ s.xcrc.xorValue).toNat →
    (s.crc16.lc ≠ .finalized → exec .crc16Final s = .next { s with
      crc16 := { s.crc16 with hash := leBytes 2 x, hashValid := true, lc := .finalized }
      response := some (.ok 2 (leBytes 2 x)) }) ∧
    (s.crc32.lc ≠ .finalized → exec .crc32Final s = .next { s with
      crc32 := { s.crc32 with hash := (leBytes 4 y).reverse, hashValid := true, lc := .finalized }
      response := some (.ok 4 (leBytes 4 y).reverse) }) ∧
    (s.xcrc.lc ≠ .finalized → exec .xcrcFinal s = .next { s with
      xcrc := { s.xcrc with hash := leBytes 2 z, hashValid := true, lc := .finalized }
      response := some (.ok 2 (leBytes 2 z)) }) ∧
    (s.crc16.lc = .finalized → exec .crc16Final s = .next (failed s .sequence)) ∧
    (s.crc32.lc = .finalized → exec .crc32Final s = .next (failed s .sequence)) ∧
    (s.xcrc.lc = .finalized → exec .xcrcFinal s = .next (failed s .sequence))

/-- Rule R133 ("splitting a message over several updates at any point gives the same register as one update"): two
UPDATEs on neighbouring ranges end in the state of one UPDATE on both. -/
def Obligations.CrcUpdatesCanBeSplit : Prop :=
  ∀ (s : State) (d : Descriptor) (off cnt off' cnt' cnt2 : Word) (h o n n' : Nat),
    InRange s.mem d off cnt h o n → InRange s.mem d off' cnt' h (o + n) n' → InRange s.mem d off cnt2 h o (n + n') →
    (s.crc16.lc ≠ .finalized → ∃ u t, exec (.crc16Update d off cnt) s = .next u ∧
      exec (.crc16Update d off' cnt') u = .next t ∧ exec (.crc16Update d off cnt2) s = .next t) ∧
    (s.crc32.lc ≠ .finalized → ∃ u t, exec (.crc32Update d off cnt) s = .next u ∧
      exec (.crc32Update d off' cnt') u = .next t ∧ exec (.crc32Update d off cnt2) s = .next t) ∧
    (s.xcrc.lc ≠ .finalized → ∃ u t, exec (.xcrcUpdate d off cnt) s = .next u ∧
      exec (.xcrcUpdate d off' cnt') u = .next t ∧ exec (.xcrcUpdate d off cnt2) s = .next t)

/-- Rules R127, R128, R129: the entries of the three tables are what their generating formulas give. -/
def Obligations.CrcTablesFollowTheirFormulas : Prop :=
  ∀ i : Byte,
    tCrc16 i = bswap16 (eight (fun a => if a.getLsbD 0 then (a >>> 1) ^^^ 0xA001 else a >>> 1) (i.setWidth 16)) ∧
    tXcrc i = eight (fun a => if a.getLsbD 15 then (a <<< 1) ^^^ 0x85A5 else a <<< 1) ((i.setWidth 16) <<< 8) ∧
    tCrc32 i = eight (fun a => if a.getLsbD 0 then (a >>> 1) ^^^ 0xEDB88320 else a >>> 1) (i.setWidth 32)

/-- Rule R124 item 1: the XCRC engine is the MSB-first bit-serial register of generator 0x85A5. -/
def Obligations.XcrcIsTheBitSerialRegister : Prop :=
  ∀ (s t : State) (d : Descriptor) (off cnt : Word) (h o n : Nat), InRange s.mem d off cnt h o n →
    exec (.xcrcUpdate d off cnt) s = .next t → IsOk t →
    t.xcrc.reg = (s.mem.bytes h o n).foldl (msbByte 0x85A5) s.xcrc.reg

/-- Rule R124 item 2: the CRC-16 register is the byte swap of the reflected 0xA001 register (CRC-16/ARC). -/
def Obligations.Crc16IsTheByteSwappedArcRegister : Prop :=
  ∀ (s t : State) (d : Descriptor) (off cnt : Word) (h o n : Nat), InRange s.mem d off cnt h o n →
    exec (.crc16Update d off cnt) s = .next t → IsOk t →
    bswap16 t.crc16.reg = (s.mem.bytes h o n).foldl (lsbByte 0xA001) (bswap16 s.crc16.reg)

/-- Rule R124 item 3: the CRC-32 engine is the reflected bit-serial register of 0xEDB88320. -/
def Obligations.Crc32IsTheReflectedRegister : Prop :=
  ∀ (s t : State) (d : Descriptor) (off cnt : Word) (h o n : Nat), InRange s.mem d off cnt h o n →
    exec (.crc32Update d off cnt) s = .next t → IsOk t →
    t.crc32.reg = (s.mem.bytes h o n).foldl (lsbByte 0xEDB88320) s.crc32.reg

/-! ## ByteOps and MD5 -/

/-- Rules R111, R112: bit i of x becomes bit (i + n) mod 32; rotation by 0 is the identity; a right rotation by n is the
left rotation by (32 - n) mod 32. -/
def Obligations.RotatesMoveBits : Prop :=
  ∀ (x : Word) (n : Nat), n ≤ 31 →
    (∀ i, i < 32 → (rotateLeft x n).getLsbD ((i + n) % 32) = x.getLsbD i) ∧
    rotateLeft x 0 = x ∧ rotateRight x 0 = x ∧ rotateRight x n = rotateLeft x ((32 - n) % 32)

/-- Rules R113 to R116: Decode undoes Encode and Encode undoes Decode in either byte order, and neither gives a result
for a length that is not a multiple of 4. -/
def Obligations.EncodeAndDecodeAreInverse : Prop :=
  ∀ (little : Bool) (len : Nat) (ws : List Word) (bs : List Byte),
    (len % 4 = 0 → ws.length = len / 4 →
      ∃ e, encodeWords ws len little = some e ∧ e.length = len ∧ decodeWords e len little = some ws) ∧
    (len % 4 = 0 → len ≤ bs.length →
      ∃ w, decodeWords bs len little = some w ∧ w.length = len / 4 ∧ encodeWords w len little = some (bs.take len)) ∧
    (len % 4 ≠ 0 → encodeWords ws len little = none ∧ decodeWords bs len little = none)

/-- Rules R163, R164, R166: MD5_INIT and MD5_FINAL with the whole state after them; FINAL zeroes the working registers
and keeps a 16-byte digest; from Finalized it is refused. -/
def Obligations.Md5InitAndFinalRegisters : Prop :=
  ∀ s : State,
    exec .md5Init s = .next { s with
      md5 := { s.md5 with st := ⟨0x67452301, 0xefcdab89, 0x98badcfe, 0x10325476⟩, countLo := 0, countHi := 0
                          buf := List.replicate 64 0, lc := .idle }
      response := some (.ok 0 []) } ∧
    (s.md5.lc ≠ .finalized → ∃ digest : List Byte, digest.length = 16 ∧ exec .md5Final s = .next { s with
      md5 := { lc := .finalized, st := ⟨0, 0, 0, 0⟩, countLo := 0, countHi := 0, buf := List.replicate 64 0, hash := digest
               hashValid := true }
      response := some (.ok 16 digest) }) ∧
    (s.md5.lc = .finalized → exec .md5Final s = .next (failed s .sequence))

/-- Rules R161, R165, R167: MD5_INIT starts the empty message, and MD5_UPDATE appends the bytes of its range to the
message the engine holds, whatever the split. -/
def Obligations.Md5UpdateAppendsToTheMessage : Prop :=
  (∀ e : Md5Engine, Md5Holds [] e.init) ∧ Md5Holds [] State.reset.md5 ∧
  ∀ (s : State) (d : Descriptor) (off cnt : Word) (h o n : Nat) (m : List Byte), InRange s.mem d off cnt h o n →
    s.md5.lc ≠ .finalized → Md5Holds m s.md5 →
    ∃ e : Md5Engine, exec (.md5Update d off cnt) s = .next { s with md5 := e, response := some (.ok 0 []) } ∧
      Md5Holds (m ++ s.mem.bytes h o n) e ∧ e.lc = .accumulating ∧ e.hash = s.md5.hash ∧ e.hashValid = s.md5.hashValid

/-- Rules R162, R163, R166: MD5_FINAL returns the one-shot MD5 of the whole message the engine holds. -/
def Obligations.Md5FinalReturnsTheDigestOfTheMessage : Prop :=
  ∀ (s : State) (m : List Byte), s.md5.lc ≠ .finalized → Md5Holds m s.md5 →
    exec .md5Final s = .next { s with
      md5 := { lc := .finalized, st := ⟨0, 0, 0, 0⟩, countLo := 0, countHi := 0, buf := List.replicate 64 0
               hash := Spec.md5 m, hashValid := true }
      response := some (.ok 16 (Spec.md5 m)) }

/-- Rules R152, R158: step i writes one of a, d, c, b, by i mod 4, with the step formula, and leaves the other three. -/
def Obligations.Md5StepWritesOneWord : Prop :=
  ∀ (x : List Word) (v : Md5Words) (i : Nat), x.length = 16 → i < 64 → ∃ xk : Word, x[md5K i]? = some xk ∧
    (i % 4 = 0 → md5StepWords x v i = { v with a := v.b + (v.a + md5Fun i v.b v.c v.d + xk + tMd5 i).rotateLeft (sMd5 i) }) ∧
    (i % 4 = 1 → md5StepWords x v i = { v with d := v.a + (v.d + md5Fun i v.a v.b v.c + xk + tMd5 i).rotateLeft (sMd5 i) }) ∧
    (i % 4 = 2 → md5StepWords x v i = { v with c := v.d + (v.c + md5Fun i v.d v.a v.b + xk + tMd5 i).rotateLeft (sMd5 i) }) ∧
    (i % 4 = 3 → md5StepWords x v i = { v with b := v.c + (v.b + md5Fun i v.c v.d v.a + xk + tMd5 i).rotateLeft (sMd5 i) })

/-! ## AES -/

/-- Rules R182, R183: the S-box is the affine image of the inverse in GF(2^8), and the two tables are inverse. -/
def Obligations.SboxIsTheAffineInverse : Prop :=
  gfInv 0 = 0 ∧ ∀ v : Byte, sbox v = affine (gfInv v) ∧ (v ≠ 0 → gfMul v (gfInv v) = 1) ∧ isbox (sbox v) = v ∧ sbox (isbox v) = v

/-- Rules R187, R188, R189, R194: every stage is undone by its inverse, and AddRoundKey by itself. -/
def Obligations.RoundStagesAreInverse : Prop :=
  ∀ (x : Block) (w : List Quad) (round : Nat),
    invSubBytes (subBytes x) = x ∧ invShiftRows (shiftRows x) = x ∧ invMixColumns (mixColumns x) = x ∧
    subBytes (invSubBytes x) = x ∧ shiftRows (invShiftRows x) = x ∧ mixColumns (invMixColumns x) = x ∧
    addRoundKey w round (addRoundKey w round x) = x

/-- Rules R191, R193: the rows of W for a key of 16, 24 or 32 bytes, NK and KEY_VALID. -/
def Obligations.KeyExpansionRows : Prop :=
  ∀ (key : List Byte) (nk : Nat), (nk = 4 ∨ nk = 6 ∨ nk = 8) → key.length = 4 * nk →
    (keyExpansion key).w.length = 60 ∧ (keyExpansion key).nk.toNat = nk ∧ (keyExpansion key).valid = true ∧
    (∀ row, row < nk → rowAt (keyExpansion key).w row =
      ⟨key.getD (4 * row) 0, key.getD (4 * row + 1) 0, key.getD (4 * row + 2) 0, key.getD (4 * row + 3) 0⟩) ∧
    (∀ row, nk ≤ row → row < 4 * (nk + 7) → rowAt (keyExpansion key).w row =
      (rowAt (keyExpansion key).w (row - nk)).xor
        (if row % nk = 0 then
          (subWord (rotWord (rowAt (keyExpansion key).w (row - 1)))).xor ⟨rcon (row / nk), 0, 0, 0⟩
        else if 6 < nk ∧ row % nk = 4 then subWord (rowAt (keyExpansion key).w (row - 1))
        else rowAt (keyExpansion key).w (row - 1))) ∧
    (∀ row, 4 * (nk + 7) ≤ row → rowAt (keyExpansion key).w row = ⟨0, 0, 0, 0⟩)

/-- Rules R195, R196: Cipher and InvCipher as the spec writes their rounds, first to last. -/
def Obligations.CipherRoundSequence : Prop :=
  ∀ (k : KeySchedule) (x : Block) (nr : Nat), nr = k.nk.toNat + 6 →
    cipher k x = addRoundKey k.w nr (shiftRows (subBytes ((List.range' 1 (nr - 1)).foldl
      (fun y round => addRoundKey k.w round (mixColumns (shiftRows (subBytes y)))) (addRoundKey k.w 0 x)))) ∧
    invCipher k x = addRoundKey k.w 0 (invSubBytes (invShiftRows ((List.range' 1 (nr - 1)).reverse.foldl
      (fun y round => invMixColumns (addRoundKey k.w round (invSubBytes (invShiftRows y)))) (addRoundKey k.w nr x))))

/-- Rule R200: AES_KEYEXP loads the key of a 16, 24 or 32-byte buffer when no session exists; its errors in order. -/
def Obligations.AesKeyexpLoadsTheKey : Prop :=
  ∀ (s : State) (k : Descriptor),
    (s.xf.lc ≠ .disposed → exec (.aesKeyexp k) s = .next (failed s .sequence)) ∧
    (s.xf.lc = .disposed → IsNull s.mem k → exec (.aesKeyexp k) s = .next (failed s (.arg .null))) ∧
    (s.xf.lc = .disposed → ¬IsNull s.mem k → lenOf s.mem k ∉ [16, 24, 32] →
      exec (.aesKeyexp k) s = .next (failed s (.arg .keylen))) ∧
    (s.xf.lc = .disposed → ¬IsNull s.mem k → lenOf s.mem k ∈ [16, 24, 32] → exec (.aesKeyexp k) s = .next { s with
      key := keyExpansion (s.mem.bytes k.handle.toNat 0 (lenOf s.mem k)), response := some (.ok 0 []) })

/-- Rules R201, R202: AES_CIPHER and AES_INVCIPHER return the block function of their inline block under the loaded key,
touch no session register, and are refused without a key. -/
def Obligations.AesBlockCommandsReturnTheBlock : Prop :=
  ∀ (s : State) (d0 d1 d2 d3 : Word),
    (s.key.valid = true → exec (.aesCipher d0 d1 d2 d3) s = .next { s with
      aesState := Block.zero, response := some (.ok 16 (cipher s.key (Block.ofWords d0 d1 d2 d3)).bytes) }) ∧
    (s.key.valid = true → exec (.aesInvcipher d0 d1 d2 d3) s = .next { s with
      aesState := Block.zero, response := some (.ok 16 (invCipher s.key (Block.ofWords d0 d1 d2 d3)).bytes) }) ∧
    (s.key.valid = false → exec (.aesCipher d0 d1 d2 d3) s = .next (failed s .sequence)) ∧
    (s.key.valid = false → exec (.aesInvcipher d0 d1 d2 d3) s = .next (failed s .sequence))

/-- Rule R197, at the commands: AES_INVCIPHER on the words AES_CIPHER returned gives the first words back, and the other
way round, under every loaded key. -/
def Obligations.InvCipherUndoesCipher : Prop :=
  ∀ (s : State) (d0 d1 d2 d3 : Word), s.key.valid = true →
    (∃ e0 e1 e2 e3 t u, exec (.aesCipher d0 d1 d2 d3) s = .next t ∧
      t.response.map Response.words = some [0, 16, e0, e1, e2, e3] ∧ exec (.aesInvcipher e0 e1 e2 e3) t = .next u ∧
      u.response.map Response.words = some [0, 16, d0, d1, d2, d3]) ∧
    (∃ e0 e1 e2 e3 t u, exec (.aesInvcipher d0 d1 d2 d3) s = .next t ∧
      t.response.map Response.words = some [0, 16, e0, e1, e2, e3] ∧ exec (.aesCipher e0 e1 e2 e3) t = .next u ∧
      u.response.map Response.words = some [0, 16, d0, d1, d2, d3])

/-! ## Configuration and sessions -/

/-- Rules R221, R222, R223: every mode code and every padding code. -/
def Obligations.ConfigurationCodes : Prop :=
  ∀ (s : State) (c : BitVec 16),
    (c.toNat = 1 → exec (.cfgSetmode c) s = .next { s with mode := .cbc, response := some (.ok 0 []) }) ∧
    (c.toNat = 2 → exec (.cfgSetmode c) s = .next { s with mode := .ecb, response := some (.ok 0 []) }) ∧
    (3 ≤ c.toNat → c.toNat ≤ 5 → exec (.cfgSetmode c) s = .next (failed s .notSupported)) ∧
    (c.toNat = 0 ∨ 5 < c.toNat → exec (.cfgSetmode c) s = .next (failed s .illegal)) ∧
    (c.toNat = 1 → exec (.cfgSetpad c) s = .next { s with padding := .noPad, response := some (.ok 0 []) }) ∧
    (c.toNat = 2 → exec (.cfgSetpad c) s = .next { s with padding := .pkcs7, response := some (.ok 0 []) }) ∧
    (c.toNat = 3 → exec (.cfgSetpad c) s = .next { s with padding := .zeros, response := some (.ok 0 []) }) ∧
    (4 ≤ c.toNat → c.toNat ≤ 5 → exec (.cfgSetpad c) s = .next (failed s .notSupported)) ∧
    (c.toNat = 0 ∨ 5 < c.toNat → exec (.cfgSetpad c) s = .next (failed s .illegal))

/-- Rules R224 to R227: creating a session: the key expanded, FB from the IV truncated or zero-extended to 16 bytes, the
configuration copied, nothing held; and the errors in order. -/
def Obligations.XfCreateStartsASession : Prop :=
  ∀ (s : State) (k v : Descriptor),
    (s.xf.lc ≠ .disposed → exec (.xfCreateEnc k v) s = .next (failed s .sequence) ∧
      exec (.xfCreateDec k v) s = .next (failed s .sequence)) ∧
    (s.xf.lc = .disposed → (IsNull s.mem k ∨ IsNull s.mem v) → exec (.xfCreateEnc k v) s = .next (failed s (.arg .null)) ∧
      exec (.xfCreateDec k v) s = .next (failed s (.arg .null))) ∧
    (s.xf.lc = .disposed → ¬IsNull s.mem k → ¬IsNull s.mem v → lenOf s.mem k ∉ [16, 24, 32] →
      exec (.xfCreateEnc k v) s = .next (failed s (.arg .keylen)) ∧
      exec (.xfCreateDec k v) s = .next (failed s (.arg .keylen))) ∧
    (s.xf.lc = .disposed → ¬IsNull s.mem k → ¬IsNull s.mem v → lenOf s.mem k ∈ [16, 24, 32] →
      ∃ fb : Block, (∀ j, j < 16 → fb.bytes.getD j 0 = if j < lenOf s.mem v then s.mem.byte v.handle.toNat j else 0) ∧
        exec (.xfCreateEnc k v) s = .next { s with
          key := keyExpansion (s.mem.bytes k.handle.toNat 0 (lenOf s.mem k))
          xf := { lc := .fresh, dir := .encrypt, smode := some s.mode, spad := some s.padding, fb := fb, hold := Block.zero
                  holdValid := false }
          response := some (.ok 0 []) } ∧
        exec (.xfCreateDec k v) s = .next { s with
          key := keyExpansion (s.mem.bytes k.handle.toNat 0 (lenOf s.mem k))
          xf := { lc := .fresh, dir := .decrypt, smode := some s.mode, spad := some s.padding, fb := fb, hold := Block.zero
                  holdValid := false }
          response := some (.ok 0 []) })

/-- Rules R68, R232, R233, R266: the errors of XF_BLOCK in order, and none of them where every check passes. -/
def Obligations.XfBlockErrorsInOrder : Prop :=
  ∀ (s : State) (din dout : Descriptor) (inOff inCount outOff : Word) (r : Result),
    r = exec (.xfBlock din inOff inCount dout outOff) s →
    (s.xf.lc = .disposed → r = .next (failed s .disposed)) ∧
    (s.xf.lc = .finalized → r = .next (failed s .sequence)) ∧
    (IsOpen s.xf → (IsNull s.mem din ∨ IsNull s.mem dout) → r = .next (failed s (.arg .null))) ∧
    (IsOpen s.xf → ¬IsNull s.mem din → ¬IsNull s.mem dout →
      ((inOff.toInt < 0 ∨ inCount.toInt < 0 ∨ outOff.toInt < 0) → r = .next (failed s (.arg .neg))) ∧
      (0 ≤ inOff.toInt → 0 ≤ inCount.toInt → 0 ≤ outOff.toInt →
        ((lenOf s.mem din < inOff.toInt + inCount.toInt ∨ lenOf s.mem dout < outOff.toInt + inCount.toInt) →
          r = .next (failed s (.arg .bounds))) ∧
        (inOff.toInt + inCount.toInt ≤ lenOf s.mem din → outOff.toInt + inCount.toInt ≤ lenOf s.mem dout →
          ((din.handle = dout.handle ∧ 0 < inCount.toInt ∧ inOff.toInt < outOff.toInt + inCount.toInt ∧
              outOff.toInt < inOff.toInt + inCount.toInt) → r = .next (failed s (.arg .overlap))) ∧
          (¬(din.handle = dout.handle ∧ 0 < inCount.toInt ∧ inOff.toInt < outOff.toInt + inCount.toInt ∧
              outOff.toInt < inOff.toInt + inCount.toInt) →
            (inCount.toInt % 16 ≠ 0 → r = .next (failed s .length)) ∧
            (inCount.toInt % 16 = 0 → ∃ t v, r = .next t ∧ t.response = some (.ok v []) ∧ t.xf.lc = .transforming)))))

/-- Rules R228, R232: XF_BLOCK in an encrypt session: INCOUNT bytes written, block j the encryption of input block j in
the session's mode, FB the last chaining value. -/
def Obligations.XfBlockEncrypts : Prop :=
  ∀ (s : State) (din dout : Descriptor) (inOff inCount outOff : Word) (hin i n hout o : Nat) (mode : CipherMode)
    (p : Nat → Block), s.mem.wf → IsOpen s.xf → s.xf.dir = .encrypt → s.xf.smode = some mode →
    BlockOperands s.mem din inOff inCount dout outOff hin i n hout o →
    (∀ j, p j = Block.load (s.mem.bytes hin (i + 16 * j) 16)) →
    ∃ m : Memory, exec (.xfBlock din inOff inCount dout outOff) s = .next { s with
        mem := m, xf := { s.xf with lc := .transforming, fb := encFb s.key mode s.xf.fb p n }, aesState := Block.zero
        response := some (.ok inCount []) } ∧
      ∀ j, j < n → m.bytes hout (o + 16 * j) 16 = (encOut s.key mode s.xf.fb p j).bytes

/-- Rules R229, R231, R232: XF_BLOCK in a decrypt session. With None or Zeros every new block is decrypted and written.
With PKCS7 the held block and all new blocks but the last are, and the last new block is held, untouched; with no new
block nothing happens. -/
def Obligations.XfBlockDecrypts : Prop :=
  ∀ (s : State) (din dout : Descriptor) (inOff inCount outOff : Word) (hin i n hout o : Nat) (mode : CipherMode)
    (pad : PaddingMode) (c : Nat → Block), s.mem.wf → IsOpen s.xf → s.xf.dir = .decrypt → s.xf.smode = some mode →
    s.xf.spad = some pad → BlockOperands s.mem din inOff inCount dout outOff hin i n hout o →
    (pad ≠ .pkcs7 → (∀ j, c j = Block.load (s.mem.bytes hin (i + 16 * j) 16)) →
      ∃ m : Memory, exec (.xfBlock din inOff inCount dout outOff) s = .next { s with
          mem := m, xf := { s.xf with lc := .transforming, fb := decFb mode s.xf.fb c n }, aesState := Block.zero
          response := some (.ok inCount []) } ∧
        ∀ j, j < n → m.bytes hout (o + 16 * j) 16 = (decOut s.key mode s.xf.fb c j).bytes) ∧
    (pad = .pkcs7 → n = 0 → exec (.xfBlock din inOff inCount dout outOff) s = .next { s with
        xf := { s.xf with lc := .transforming }, aesState := Block.zero, response := some (.ok 0 []) }) ∧
    (pad = .pkcs7 → 0 < n → ∀ q : Nat, q = (if s.xf.holdValid then n else n - 1) →
      (∀ j, c j = blockAt (waiting s.xf (s.mem.bytes hin i (16 * n))) j) →
      ∃ m : Memory, exec (.xfBlock din inOff inCount dout outOff) s = .next { s with
          mem := m
          xf := { s.xf with lc := .transforming, fb := decFb mode s.xf.fb c q
                            hold := Block.load (s.mem.bytes hin (i + 16 * (n - 1)) 16), holdValid := true }
          aesState := Block.zero, response := some (.ok (BitVec.ofNat 32 (16 * q)) []) } ∧
        ∀ j, j < q → m.bytes hout (o + 16 * j) 16 = (decOut s.key mode s.xf.fb c j).bytes)

/-- Rules R234 to R236: XF_FINAL in an encrypt session returns the encryption of the padded data and ends the session;
with None it needs whole blocks. -/
def Obligations.XfFinalEncrypts : Prop :=
  ∀ (s : State) (d : Descriptor) (off cnt : Word) (h o n : Nat) (mode : CipherMode) (pad : PaddingMode),
    InRange s.mem d off cnt h o n → IsOpen s.xf → s.xf.dir = .encrypt → s.xf.smode = some mode → s.xf.spad = some pad →
    (pad = .noPad → n % 16 ≠ 0 → exec (.xfFinal d off cnt) s = .next (failed s .length)) ∧
    ((pad = .noPad → n % 16 = 0) → ∃ (q out : List Byte) (k : Nat), Padded pad (s.mem.bytes h o n) q ∧ q.length = 16 * k ∧
      IsBlocks out k (encOut s.key mode s.xf.fb (blockAt q)) ∧
      exec (.xfFinal d off cnt) s = .next { s with
        xf := { s.xf with lc := .finalized, fb := encFb s.key mode s.xf.fb (blockAt q) k }, aesState := Block.zero
        response := some (.ok (BitVec.ofNat 32 (16 * k)) out) })

/-- Rules R235 to R237: XF_FINAL in a decrypt session decrypts the held block and the data. None and Zeros return it as it
is; PKCS7 reads the last byte N, cuts N bytes for N from 1 to 16, and refuses any other N and an empty stream with
nothing changed. -/
def Obligations.XfFinalDecrypts : Prop :=
  ∀ (s : State) (d : Descriptor) (off cnt : Word) (h o n : Nat) (mode : CipherMode) (pad : PaddingMode),
    InRange s.mem d off cnt h o n → IsOpen s.xf → s.xf.dir = .decrypt → s.xf.smode = some mode → s.xf.spad = some pad →
    (n % 16 ≠ 0 → exec (.xfFinal d off cnt) s = .next (failed s .length)) ∧
    (n % 16 = 0 → ∀ q : List Byte, q = waiting s.xf (s.mem.bytes h o n) →
      ∃ (p : List Byte) (k : Nat), q.length = 16 * k ∧ IsBlocks p k (decOut s.key mode s.xf.fb (blockAt q)) ∧
        (pad ≠ .pkcs7 → exec (.xfFinal d off cnt) s = .next { s with
          xf := { s.xf with lc := .finalized, fb := decFb mode s.xf.fb (blockAt q) k, hold := Block.zero, holdValid := false }
          aesState := Block.zero, response := some (.ok (BitVec.ofNat 32 (16 * k)) p) }) ∧
        (pad = .pkcs7 → q = [] → exec (.xfFinal d off cnt) s = .next (failed s .padding)) ∧
        (pad = .pkcs7 → ∀ last : Byte, p.getLast? = some last →
          (last.toNat = 0 ∨ 16 < last.toNat → exec (.xfFinal d off cnt) s = .next (failed s .padding)) ∧
          (1 ≤ last.toNat → last.toNat ≤ 16 → exec (.xfFinal d off cnt) s = .next { s with
            xf := { s.xf with lc := .finalized, fb := decFb mode s.xf.fb (blockAt q) k, hold := Block.zero
                              holdValid := false }
            aesState := Block.zero
            response := some (.ok (BitVec.ofNat 32 (16 * k - last.toNat)) (p.take (16 * k - last.toNat))) })))

/-- Rule R238: what XF_FINAL of an encrypt session returned, decrypted by XF_FINAL of a decrypt session with the same key,
mode, padding and chaining value, is the plaintext; under Zeros it is the padded plaintext. -/
def Obligations.DecryptOfEncryptIsThePlaintext : Prop :=
  ∀ (s u t : State) (d d' : Descriptor) (off cnt off' cnt' v : Word) (h o n h' o' n' : Nat) (mode : CipherMode)
    (pad : PaddingMode) (out : List Byte),
    InRange s.mem d off cnt h o n → IsOpen s.xf → s.xf.dir = .encrypt → s.xf.smode = some mode → s.xf.spad = some pad →
    exec (.xfFinal d off cnt) s = .next t → t.response = some (.ok v out) →
    u.key = s.key → u.xf = { s.xf with dir := .decrypt, hold := Block.zero, holdValid := false } →
    InRange u.mem d' off' cnt' h' o' n' → u.mem.bytes h' o' n' = out →
    ∃ (w : State) (plain : List Byte), exec (.xfFinal d' off' cnt') u = .next w ∧
      w.response = some (.ok (BitVec.ofNat 32 plain.length) plain) ∧
      (pad ≠ .zeros → plain = s.mem.bytes h o n) ∧ (pad = .zeros → Padded .zeros (s.mem.bytes h o n) plain)

/-- Rule R238 ("for any split of the data between XF_BLOCK calls and XF_FINAL"), in either direction and in one buffer or
two: XF_BLOCK on the first n blocks of a range and XF_FINAL on the rest put out, together, what one XF_FINAL on the whole
range returns, and leave the same session; where one way ends in an error so does the other. The first call must not
write over the data of the second: no byte it wrote is one of the rest. -/
def Obligations.StreamingEqualsOneFinish : Prop :=
  ∀ (s u w w1 : State) (din dout : Descriptor) (inOff inCount outOff off cnt cnt1 v : Word) (hin i n hout o m : Nat),
    s.Inv → IsOpen s.xf → BlockOperands s.mem din inOff inCount dout outOff hin i n hout o →
    (hin = hout → ∀ k, o ≤ k → k < o + v.toNat → k < i + 16 * n ∨ i + 16 * n + m ≤ k) →
    InRange s.mem din off cnt hin (i + 16 * n) m → InRange s.mem din inOff cnt1 hin i (16 * n + m) →
    exec (.xfBlock din inOff inCount dout outOff) s = .next u → u.response = some (.ok v []) →
    exec (.xfFinal din off cnt) u = .next w → exec (.xfFinal din inOff cnt1) s = .next w1 →
    (∀ e, w.response = some (.error e) ↔ w1.response = some (.error e)) ∧
    (∀ r out, w.response = some (.ok r out) → w1.xf = w.xf ∧
      ∃ r1, w1.response = some (.ok r1 (u.mem.bytes hout o v.toNat ++ out)))

/-- Rule R240: XF_DISPOSE zeroes the key schedule and the session in every state and keeps MODE and PADDING. -/
def Obligations.DisposeZeroesKeyAndSession : Prop :=
  ∀ s : State, exec .xfDispose s = .next { s with
    key := { w := List.replicate 60 ⟨0, 0, 0, 0⟩, nk := 0, valid := false }
    xf := { lc := .disposed, dir := .encrypt, smode := none, spad := none, fb := Block.load (List.replicate 16 0)
            hold := Block.load (List.replicate 16 0), holdValid := false }
    response := some (.ok 0 []) }

/-! ## System commands and reset -/

/-- Rules R39, R40, R250: the value of every register RDREG reads, and ERR_ILLEGAL for every other number. -/
def Obligations.RegisterReads : Prop :=
  ∀ (s : State) (n : BitVec 16),
    (¬isRegister n.toNat → exec (.rdreg n) s = .next (failed s .illegal)) ∧
    (isRegister n.toNat → ∃ v : Word, exec (.rdreg n) s = .next { s with response := some (.ok v []) } ∧
      (n.toNat = 0x00 → v.toNat = 128) ∧
      (n.toNat = 0x01 → s.key.valid = true → v.toNat = 32 * s.key.nk.toNat) ∧
      (n.toNat = 0x01 → s.key.valid = false → v.toNat = 128 ∨ v.toNat = 192 ∨ v.toNat = 256) ∧
      (n.toNat = 0x02 → v.toNat = match s.mode with | .cbc => 1 | .ecb => 2) ∧
      (n.toNat = 0x03 → v.toNat = match s.padding with | .noPad => 1 | .pkcs7 => 2 | .zeros => 3) ∧
      (n.toNat = 0x04 → v.toNat = (match s.xf.lc with | .disposed => 0 | .fresh => 1 | .transforming => 2 | .finalized => 3) +
        (match s.xf.dir with | .encrypt => 0 | .decrypt => 4) + (if s.xf.holdValid then 8 else 0) +
        (if s.key.valid then 16 else 0) + 32 * (match s.xf.smode with | none => 0 | some .cbc => 1 | some .ecb => 2) +
        256 * (match s.xf.spad with | none => 0 | some .noPad => 1 | some .pkcs7 => 2 | some .zeros => 3) +
        2048 * s.key.nk.toNat) ∧
      (n.toNat = 0x10 → v.toNat = s.crc16.initValue.toNat) ∧ (n.toNat = 0x11 → v.toNat = s.crc16.xorValue.toNat) ∧
      (n.toNat = 0x14 → v = s.crc32.initValue) ∧ (n.toNat = 0x15 → v = s.crc32.xorValue) ∧
      (n.toNat = 0x18 → v.toNat = s.xcrc.initValue.toNat) ∧ (n.toNat = 0x19 → v.toNat = s.xcrc.xorValue.toNat) ∧
      (n.toNat = 0x12 ∨ n.toNat = 0x1A → v.toNat = 16) ∧ (n.toNat = 0x16 → v.toNat = 32) ∧ (n.toNat = 0x20 → v.toNat = 128) ∧
      (∀ (lc : HashLc) (valid : Bool),
        (n.toNat = 0x13 ∧ lc = s.crc16.lc ∧ valid = s.crc16.hashValid) ∨ (n.toNat = 0x17 ∧ lc = s.crc32.lc ∧ valid = s.crc32.hashValid) ∨
        (n.toNat = 0x1B ∧ lc = s.xcrc.lc ∧ valid = s.xcrc.hashValid) ∨ (n.toNat = 0x21 ∧ lc = s.md5.lc ∧ valid = s.md5.hashValid) →
        v.toNat = (match lc with | .idle => 0 | .accumulating => 1 | .finalized => 2) + (if valid then 4 else 0)) ∧
      (n.toNat = 0x30 → v = 0x00010103))

/-- Rule R251: RDHASH returns the bytes of the engine's HASH register, and ERR_SEQUENCE before the first FINAL. -/
def Obligations.HashReads : Prop :=
  ∀ (s : State) (e : BitVec 4) (valid : Bool) (hash : List Byte),
    (3 < e.toNat → exec (.rdhash e) s = .next (failed s .illegal)) ∧
    ((e.toNat = 0 ∧ valid = s.crc16.hashValid ∧ hash = s.crc16.hash) ∨ (e.toNat = 1 ∧ valid = s.crc32.hashValid ∧ hash = s.crc32.hash) ∨
      (e.toNat = 2 ∧ valid = s.xcrc.hashValid ∧ hash = s.xcrc.hash) ∨ (e.toNat = 3 ∧ valid = s.md5.hashValid ∧ hash = s.md5.hash) →
      (valid = false → exec (.rdhash e) s = .next (failed s .sequence)) ∧
      (valid = true → exec (.rdhash e) s = .next { s with response := some (.ok (BitVec.ofNat 32 hash.length) hash) }))

/-- Rule R46: every register after reset. -/
def Obligations.ResetValues : Prop :=
  State.reset.crc16 = { lc := .idle, reg := 0, initValue := 0, xorValue := 0, hash := [0, 0], hashValid := false } ∧
  State.reset.crc32 = { lc := .idle, reg := 0xFFFFFFFF, initValue := 0xFFFFFFFF, xorValue := 0xFFFFFFFF
                        hash := [0, 0, 0, 0], hashValid := false } ∧
  State.reset.xcrc = { lc := .idle, reg := 0xA695, initValue := 0xA695, xorValue := 0xFFFF, hash := [0, 0], hashValid := false } ∧
  State.reset.md5 = { lc := .idle, st := ⟨0x67452301, 0xefcdab89, 0x98badcfe, 0x10325476⟩, countLo := 0, countHi := 0
                      buf := List.replicate 64 0, hash := List.replicate 16 0, hashValid := false } ∧
  State.reset.key = { w := List.replicate 60 ⟨0, 0, 0, 0⟩, nk := 0, valid := false } ∧
  State.reset.aesState = Block.load (List.replicate 16 0) ∧ State.reset.mode = .cbc ∧ State.reset.padding = .pkcs7 ∧
  State.reset.xf = { lc := .disposed, dir := .encrypt, smode := none, spad := none, fb := Block.load (List.replicate 16 0)
                     hold := Block.load (List.replicate 16 0), holdValid := false }

/-- Rules R290, R291: the reset event, between commands, puts every register at its reset value and touches no host buffer.
That it leaves the last response with the host is the model's choice: log entry 5. -/
def Obligations.ResetEventRestoresEveryRegister : Prop :=
  ∀ (s : State) (ms : List HostMove), s.link = [] → s.moves = .reset :: ms →
    step s = .next { State.reset with mem := s.mem, moves := ms, response := s.response }
end

