-- ==== Sys2Proof/Laws/Encoding.lean ====
section
/-! SUPPORT. The fields of a command word and of a descriptor word: taking apart what was put together, and back. -/

namespace Sys2Proof

theorem mkCw_toNat (u o e : BitVec 4) (n : BitVec 16) :
    (mkCw u o e n).toNat = u.toNat * 2 ^ 28 + o.toNat * 2 ^ 24 + e.toNat * 2 ^ 20 + n.toNat := by
  have hn := n.isLt
  have hu := u.isLt
  have ho := o.isLt
  have he := e.isLt
  have app : ∀ {k m : Nat} (x : BitVec k) (y : BitVec m), (x ++ y).toNat = x.toNat * 2 ^ m + y.toNat := by
    intro k m x y
    rw [BitVec.toNat_append, ← Nat.shiftLeft_add_eq_or_of_lt y.isLt, Nat.shiftLeft_eq]
  simp only [mkCw, app, BitVec.toNat_ofNat]
  omega

@[simp] theorem cwUnit_mkCw (u o e : BitVec 4) (n : BitVec 16) : cwUnit (mkCw u o e n) = u := by
  have hn := n.isLt
  have hu := u.isLt
  have ho := o.isLt
  have he := e.isLt
  rw [← BitVec.toNat_inj]
  simp only [cwUnit, BitVec.extractLsb'_toNat, mkCw_toNat, Nat.shiftRight_eq_div_pow]
  omega

@[simp] theorem cwOp_mkCw (u o e : BitVec 4) (n : BitVec 16) : cwOp (mkCw u o e n) = o := by
  have hn := n.isLt
  have hu := u.isLt
  have ho := o.isLt
  have he := e.isLt
  rw [← BitVec.toNat_inj]
  simp only [cwOp, BitVec.extractLsb'_toNat, mkCw_toNat, Nat.shiftRight_eq_div_pow]
  omega

@[simp] theorem cwSel_mkCw (u o e : BitVec 4) (n : BitVec 16) : cwSel (mkCw u o e n) = e := by
  have hn := n.isLt
  have hu := u.isLt
  have ho := o.isLt
  have he := e.isLt
  rw [← BitVec.toNat_inj]
  simp only [cwSel, BitVec.extractLsb'_toNat, mkCw_toNat, Nat.shiftRight_eq_div_pow]
  omega

@[simp] theorem cwRsv_mkCw (u o e : BitVec 4) (n : BitVec 16) : cwRsv (mkCw u o e n) = 0 := by
  have hn := n.isLt
  have hu := u.isLt
  have ho := o.isLt
  have he := e.isLt
  rw [← BitVec.toNat_inj]
  simp only [cwRsv, BitVec.extractLsb'_toNat, mkCw_toNat, Nat.shiftRight_eq_div_pow, BitVec.ofNat_eq_ofNat,
    BitVec.toNat_ofNat]
  omega

@[simp] theorem cwImm16_mkCw (u o e : BitVec 4) (n : BitVec 16) : cwImm16 (mkCw u o e n) = n := by
  have hn := n.isLt
  have hu := u.isLt
  have ho := o.isLt
  have he := e.isLt
  rw [← BitVec.toNat_inj]
  simp only [cwImm16, BitVec.extractLsb'_toNat, mkCw_toNat, Nat.shiftRight_eq_div_pow]
  omega

/-- A command word with reserved bits 0 is made of its other fields. -/
theorem mkCw_fields (cw : Word) (h : cwRsv cw = 0) : mkCw (cwUnit cw) (cwOp cw) (cwSel cw) (cwImm16 cw) = cw := by
  have hc := cw.isLt
  have hr : (cwRsv cw).toNat = 0 := by rw [h]; rfl
  rw [← BitVec.toNat_inj, mkCw_toNat]
  simp only [cwUnit, cwOp, cwSel, cwRsv, cwImm16, BitVec.extractLsb'_toNat, Nat.shiftRight_eq_div_pow] at *
  omega

@[simp] theorem toDescriptor_ofDescriptor (d : Descriptor) : toDescriptor (ofDescriptor d) = d := by
  obtain ⟨v, h⟩ := d
  have hh := h.isLt
  have hv : (ofDescriptor ⟨v, h⟩).toNat = v.toNat * 2 ^ 31 + h.toNat := by
    simp only [ofDescriptor]
    rw [BitVec.toNat_append, ← Nat.shiftLeft_add_eq_or_of_lt hh, Nat.shiftLeft_eq]
    cases v <;> rfl
  simp only [toDescriptor, Descriptor.mk.injEq]
  constructor
  · rw [BitVec.getLsbD, hv, Nat.testBit_eq_decide_div_mod_eq]
    cases v <;> simp <;> omega
  · rw [← BitVec.toNat_inj, BitVec.extractLsb'_toNat, hv]
    cases v <;> simp <;> omega

@[simp] theorem ofDescriptor_toDescriptor (w : Word) : ofDescriptor (toDescriptor w) = w := by
  have hw := w.isLt
  simp only [toDescriptor, ofDescriptor]
  rw [← BitVec.toNat_inj, BitVec.toNat_append, ← Nat.shiftLeft_add_eq_or_of_lt (BitVec.isLt _), Nat.shiftLeft_eq]
  have hb : (BitVec.ofBool (w.getLsbD 31)).toNat = w.toNat / 2 ^ 31 := by
    rw [BitVec.getLsbD, Nat.testBit_eq_decide_div_mod_eq]
    have : w.toNat / 2 ^ 31 % 2 = w.toNat / 2 ^ 31 := by omega
    rw [this]
    rcases (show w.toNat / 2 ^ 31 = 0 ∨ w.toNat / 2 ^ 31 = 1 by omega) with h | h <;> rw [h] <;> rfl
  rw [hb, BitVec.extractLsb'_toNat]
  simp only [Nat.shiftRight_zero]
  omega

end Sys2Proof
end

