-- ==== Sys2Proof/Laws/Engines.lean ====
section
/-! SUPPORT. The hash engines field by field: what each operation on a CRC engine or on the MD5 engine writes and keeps. -/

namespace Sys2Proof.Machine

/-! ### CRC engines (`41_crc.md` rules R130 to R134) -/

@[simp] theorem CrcEngine.init_lc {w : Nat} (e : CrcEngine w) : e.init.lc = .idle := rfl
@[simp] theorem CrcEngine.init_reg {w : Nat} (e : CrcEngine w) : e.init.reg = e.initValue := rfl
@[simp] theorem CrcEngine.init_initValue {w : Nat} (e : CrcEngine w) : e.init.initValue = e.initValue := rfl
@[simp] theorem CrcEngine.init_xorValue {w : Nat} (e : CrcEngine w) : e.init.xorValue = e.xorValue := rfl
@[simp] theorem CrcEngine.init_hash {w : Nat} (e : CrcEngine w) : e.init.hash = e.hash := rfl
@[simp] theorem CrcEngine.init_hashValid {w : Nat} (e : CrcEngine w) : e.init.hashValid = e.hashValid := rfl

@[simp] theorem CrcEngine.setInit_lc {w : Nat} (e : CrcEngine w) (v : BitVec w) : (e.setInit v).lc = .idle := rfl
@[simp] theorem CrcEngine.setInit_reg {w : Nat} (e : CrcEngine w) (v : BitVec w) : (e.setInit v).reg = v := rfl
@[simp] theorem CrcEngine.setInit_initValue {w : Nat} (e : CrcEngine w) (v : BitVec w) : (e.setInit v).initValue = v := rfl
@[simp] theorem CrcEngine.setInit_xorValue {w : Nat} (e : CrcEngine w) (v : BitVec w) :
    (e.setInit v).xorValue = e.xorValue := rfl
@[simp] theorem CrcEngine.setInit_hash {w : Nat} (e : CrcEngine w) (v : BitVec w) : (e.setInit v).hash = e.hash := rfl
@[simp] theorem CrcEngine.setInit_hashValid {w : Nat} (e : CrcEngine w) (v : BitVec w) :
    (e.setInit v).hashValid = e.hashValid := rfl

@[simp] theorem CrcEngine.setXor_lc {w : Nat} (e : CrcEngine w) (v : BitVec w) : (e.setXor v).lc = e.lc := rfl
@[simp] theorem CrcEngine.setXor_reg {w : Nat} (e : CrcEngine w) (v : BitVec w) : (e.setXor v).reg = e.reg := rfl
@[simp] theorem CrcEngine.setXor_initValue {w : Nat} (e : CrcEngine w) (v : BitVec w) :
    (e.setXor v).initValue = e.initValue := rfl
@[simp] theorem CrcEngine.setXor_xorValue {w : Nat} (e : CrcEngine w) (v : BitVec w) : (e.setXor v).xorValue = v := rfl
@[simp] theorem CrcEngine.setXor_hash {w : Nat} (e : CrcEngine w) (v : BitVec w) : (e.setXor v).hash = e.hash := rfl
@[simp] theorem CrcEngine.setXor_hashValid {w : Nat} (e : CrcEngine w) (v : BitVec w) :
    (e.setXor v).hashValid = e.hashValid := rfl

@[simp] theorem CrcEngine.update_lc {w : Nat} (f : BitVec w → Byte → BitVec w) (e : CrcEngine w) (l : List Byte) :
    (e.update f l).lc = .accumulating := rfl
@[simp] theorem CrcEngine.update_reg {w : Nat} (f : BitVec w → Byte → BitVec w) (e : CrcEngine w) (l : List Byte) :
    (e.update f l).reg = l.foldl f e.reg := rfl
@[simp] theorem CrcEngine.update_initValue {w : Nat} (f : BitVec w → Byte → BitVec w) (e : CrcEngine w) (l : List Byte) :
    (e.update f l).initValue = e.initValue := rfl
@[simp] theorem CrcEngine.update_xorValue {w : Nat} (f : BitVec w → Byte → BitVec w) (e : CrcEngine w) (l : List Byte) :
    (e.update f l).xorValue = e.xorValue := rfl
@[simp] theorem CrcEngine.update_hash {w : Nat} (f : BitVec w → Byte → BitVec w) (e : CrcEngine w) (l : List Byte) :
    (e.update f l).hash = e.hash := rfl
@[simp] theorem CrcEngine.update_hashValid {w : Nat} (f : BitVec w → Byte → BitVec w) (e : CrcEngine w) (l : List Byte) :
    (e.update f l).hashValid = e.hashValid := rfl

@[simp] theorem CrcEngine.final_lc {w : Nat} (f : BitVec w → List Byte) (e : CrcEngine w) : (e.final f).lc = .finalized := rfl
@[simp] theorem CrcEngine.final_reg {w : Nat} (f : BitVec w → List Byte) (e : CrcEngine w) : (e.final f).reg = e.reg := rfl
@[simp] theorem CrcEngine.final_initValue {w : Nat} (f : BitVec w → List Byte) (e : CrcEngine w) :
    (e.final f).initValue = e.initValue := rfl
@[simp] theorem CrcEngine.final_xorValue {w : Nat} (f : BitVec w → List Byte) (e : CrcEngine w) :
    (e.final f).xorValue = e.xorValue := rfl
@[simp] theorem CrcEngine.final_hash {w : Nat} (f : BitVec w → List Byte) (e : CrcEngine w) :
    (e.final f).hash = f (e.reg ^^^ e.xorValue) := rfl
@[simp] theorem CrcEngine.final_hashValid {w : Nat} (f : BitVec w → List Byte) (e : CrcEngine w) :
    (e.final f).hashValid = true := rfl

/-! ### The MD5 engine (`42_md5.md` rules R161 to R166) -/

/-- `Md5Core` where the buffer is not filled. -/
theorem Md5Engine.core_short (e : Md5Engine) (data : List Byte) (h : data.length < 64 - e.pending) :
    e.core data = { e with countLo := (md5Count e.countLo e.countHi data.length).1
                           countHi := (md5Count e.countLo e.countHi data.length).2
                           buf := copyInto e.buf e.pending data } := by
  simp only [Md5Engine.core, if_neg (Nat.not_le.mpr h)]

/-- `Md5Core` where the buffer is filled at least once. -/
theorem Md5Engine.core_long (e : Md5Engine) (data : List Byte) (h : 64 - e.pending ≤ data.length) :
    e.core data = { e with
      st := (md5Chunks (md5Transform e.st (copyBytes e.buf e.pending data 0 (64 - e.pending)))
        (data.drop (64 - e.pending)) ((data.length - (64 - e.pending)) / 64)).1
      countLo := (md5Count e.countLo e.countHi data.length).1
      countHi := (md5Count e.countLo e.countHi data.length).2
      buf := copyInto (copyBytes e.buf e.pending data 0 (64 - e.pending)) 0
        (md5Chunks (md5Transform e.st (copyBytes e.buf e.pending data 0 (64 - e.pending)))
          (data.drop (64 - e.pending)) ((data.length - (64 - e.pending)) / 64)).2 } := by
  simp only [Md5Engine.core, if_pos h]

@[simp] theorem Md5Engine.core_lc (e : Md5Engine) (data : List Byte) : (e.core data).lc = e.lc := by
  rcases Nat.lt_or_ge data.length (64 - e.pending) with h | h
  · rw [Md5Engine.core_short e data h]
  · rw [Md5Engine.core_long e data h]

@[simp] theorem Md5Engine.core_hash (e : Md5Engine) (data : List Byte) : (e.core data).hash = e.hash := by
  rcases Nat.lt_or_ge data.length (64 - e.pending) with h | h
  · rw [Md5Engine.core_short e data h]
  · rw [Md5Engine.core_long e data h]

@[simp] theorem Md5Engine.core_hashValid (e : Md5Engine) (data : List Byte) : (e.core data).hashValid = e.hashValid := by
  rcases Nat.lt_or_ge data.length (64 - e.pending) with h | h
  · rw [Md5Engine.core_short e data h]
  · rw [Md5Engine.core_long e data h]

@[simp] theorem Md5Engine.core_countLo (e : Md5Engine) (data : List Byte) :
    (e.core data).countLo = (md5Count e.countLo e.countHi data.length).1 := by
  rcases Nat.lt_or_ge data.length (64 - e.pending) with h | h
  · rw [Md5Engine.core_short e data h]
  · rw [Md5Engine.core_long e data h]

@[simp] theorem Md5Engine.core_countHi (e : Md5Engine) (data : List Byte) :
    (e.core data).countHi = (md5Count e.countLo e.countHi data.length).2 := by
  rcases Nat.lt_or_ge data.length (64 - e.pending) with h | h
  · rw [Md5Engine.core_short e data h]
  · rw [Md5Engine.core_long e data h]

/-- `MD5_UPDATE` on the engine, field by field. Proofs rewrite with this rather than compare by unfolding. -/
theorem Md5Engine.update_eq (e : Md5Engine) (l : List Byte) :
    e.update l = ⟨.accumulating, (e.core l).st, (e.core l).countLo, (e.core l).countHi, (e.core l).buf, (e.core l).hash,
      (e.core l).hashValid⟩ := rfl

@[simp] theorem Md5Engine.update_lc (e : Md5Engine) (l : List Byte) : (e.update l).lc = .accumulating := rfl

theorem Md5Engine.hash_withLc (e : Md5Engine) (lc : HashLc) : ({ e with lc := lc } : Md5Engine).hash = e.hash := rfl

theorem Md5Engine.hashValid_withLc (e : Md5Engine) (lc : HashLc) :
    ({ e with lc := lc } : Md5Engine).hashValid = e.hashValid := rfl

@[simp] theorem Md5Engine.update_hash (e : Md5Engine) (l : List Byte) : (e.update l).hash = e.hash :=
  (Md5Engine.hash_withLc (e.core l) .accumulating).trans (e.core_hash l)

@[simp] theorem Md5Engine.update_hashValid (e : Md5Engine) (l : List Byte) : (e.update l).hashValid = e.hashValid :=
  (Md5Engine.hashValid_withLc (e.core l) .accumulating).trans (e.core_hashValid l)

@[simp] theorem Md5Engine.init_lc (e : Md5Engine) : e.init.lc = .idle := rfl
@[simp] theorem Md5Engine.init_hash (e : Md5Engine) : e.init.hash = e.hash := rfl
@[simp] theorem Md5Engine.init_hashValid (e : Md5Engine) : e.init.hashValid = e.hashValid := rfl
@[simp] theorem Md5Engine.final_lc (e : Md5Engine) : e.final.lc = .finalized := rfl
@[simp] theorem Md5Engine.final_hashValid (e : Md5Engine) : e.final.hashValid = true := rfl
@[simp] theorem Md5Engine.final_hash (e : Md5Engine) : e.final.hash = e.digest := rfl

/-! ### Lengths in the MD5 engine -/

theorem copyInto_length (dst src : List Byte) (off : Nat) (h : off + src.length ≤ dst.length) :
    (copyInto dst off src).length = dst.length := by
  simp [copyInto]; omega

/-- What `md5Chunks` leaves over. -/
theorem md5Chunks_rest_length (st : Md5Words) (data : List Byte) (k : Nat) :
    (md5Chunks st data k).2.length = data.length - 64 * k := by
  induction k generalizing st data with
  | zero => simp [md5Chunks]
  | succ k ih => rw [md5Chunks, ih]; simp; omega

theorem Md5Engine.pending_lt (e : Md5Engine) : e.pending < 64 := Nat.mod_lt _ (by omega)

/-- The buffer keeps its 64 bytes. -/
theorem Md5Engine.core_buf_length (e : Md5Engine) (data : List Byte) (h : e.buf.length = 64) :
    (e.core data).buf.length = 64 := by
  have hp := e.pending_lt
  rcases Nat.lt_or_ge data.length (64 - e.pending) with hl | hl
  · rw [Md5Engine.core_short _ _ hl]; simp only; rw [copyInto_length] <;> omega
  · rw [Md5Engine.core_long _ _ hl]; simp only
    have h1 : (copyBytes e.buf e.pending data 0 (64 - e.pending)).length = 64 := by
      unfold copyBytes; rw [copyInto_length]
      · exact h
      · simp; omega
    rw [copyInto_length, h1]
    rw [md5Chunks_rest_length, h1]; simp; omega

/-- The two-word counter is the 64-bit sum modulo 2^64 (rule R168). -/
theorem md5Count_sum (lo hi : Word) (n : Nat) :
    (md5Count lo hi n).2.toNat * 2 ^ 32 + (md5Count lo hi n).1.toNat = (hi.toNat * 2 ^ 32 + lo.toNat + 8 * n) % 2 ^ 64 := by
  have h1 : lo.toNat < 2 ^ 32 := lo.isLt
  have h2 : hi.toNat < 2 ^ 32 := hi.isLt
  have hs : n <<< 3 = 8 * n := by rw [Nat.shiftLeft_eq]; omega
  have hd : n >>> 29 = n / 2 ^ 29 := Nat.shiftRight_eq_div_pow n 29
  have o1 : BitVec.toNat (1 : Word) = 1 := rfl
  have o0 : BitVec.toNat (0 : Word) = 0 := rfl
  simp only [md5Count, hs, hd]
  split <;> rename_i hc <;>
    simp only [BitVec.lt_def, BitVec.toNat_add, BitVec.toNat_ofNat, Nat.reducePow, o1, o0] at hc ⊢ <;> omega

end Sys2Proof.Machine
end

