-- ==== Sys2Proof/Laws/State.lean ====
section
/-! SUPPORT. One lemma for each field of State after each write of one register (Machine/Ops.lean), all true by rfl: later
proofs never unfold a record update. -/

namespace Sys2Proof.Machine

/-! ### withCrc16 -/

@[simp] theorem State.withCrc16_crc16 (s : State) (v : CrcEngine 16) : (s.withCrc16 v).crc16 = v := rfl
@[simp] theorem State.withCrc16_crc32 (s : State) (v : CrcEngine 16) : (s.withCrc16 v).crc32 = s.crc32 := rfl
@[simp] theorem State.withCrc16_xcrc (s : State) (v : CrcEngine 16) : (s.withCrc16 v).xcrc = s.xcrc := rfl
@[simp] theorem State.withCrc16_md5 (s : State) (v : CrcEngine 16) : (s.withCrc16 v).md5 = s.md5 := rfl
@[simp] theorem State.withCrc16_key (s : State) (v : CrcEngine 16) : (s.withCrc16 v).key = s.key := rfl
@[simp] theorem State.withCrc16_aesState (s : State) (v : CrcEngine 16) : (s.withCrc16 v).aesState = s.aesState := rfl
@[simp] theorem State.withCrc16_mode (s : State) (v : CrcEngine 16) : (s.withCrc16 v).mode = s.mode := rfl
@[simp] theorem State.withCrc16_padding (s : State) (v : CrcEngine 16) : (s.withCrc16 v).padding = s.padding := rfl
@[simp] theorem State.withCrc16_xf (s : State) (v : CrcEngine 16) : (s.withCrc16 v).xf = s.xf := rfl
@[simp] theorem State.withCrc16_mem (s : State) (v : CrcEngine 16) : (s.withCrc16 v).mem = s.mem := rfl
@[simp] theorem State.withCrc16_link (s : State) (v : CrcEngine 16) : (s.withCrc16 v).link = s.link := rfl
@[simp] theorem State.withCrc16_moves (s : State) (v : CrcEngine 16) : (s.withCrc16 v).moves = s.moves := rfl
@[simp] theorem State.withCrc16_response (s : State) (v : CrcEngine 16) : (s.withCrc16 v).response = s.response := rfl

/-! ### withCrc32 -/

@[simp] theorem State.withCrc32_crc16 (s : State) (v : CrcEngine 32) : (s.withCrc32 v).crc16 = s.crc16 := rfl
@[simp] theorem State.withCrc32_crc32 (s : State) (v : CrcEngine 32) : (s.withCrc32 v).crc32 = v := rfl
@[simp] theorem State.withCrc32_xcrc (s : State) (v : CrcEngine 32) : (s.withCrc32 v).xcrc = s.xcrc := rfl
@[simp] theorem State.withCrc32_md5 (s : State) (v : CrcEngine 32) : (s.withCrc32 v).md5 = s.md5 := rfl
@[simp] theorem State.withCrc32_key (s : State) (v : CrcEngine 32) : (s.withCrc32 v).key = s.key := rfl
@[simp] theorem State.withCrc32_aesState (s : State) (v : CrcEngine 32) : (s.withCrc32 v).aesState = s.aesState := rfl
@[simp] theorem State.withCrc32_mode (s : State) (v : CrcEngine 32) : (s.withCrc32 v).mode = s.mode := rfl
@[simp] theorem State.withCrc32_padding (s : State) (v : CrcEngine 32) : (s.withCrc32 v).padding = s.padding := rfl
@[simp] theorem State.withCrc32_xf (s : State) (v : CrcEngine 32) : (s.withCrc32 v).xf = s.xf := rfl
@[simp] theorem State.withCrc32_mem (s : State) (v : CrcEngine 32) : (s.withCrc32 v).mem = s.mem := rfl
@[simp] theorem State.withCrc32_link (s : State) (v : CrcEngine 32) : (s.withCrc32 v).link = s.link := rfl
@[simp] theorem State.withCrc32_moves (s : State) (v : CrcEngine 32) : (s.withCrc32 v).moves = s.moves := rfl
@[simp] theorem State.withCrc32_response (s : State) (v : CrcEngine 32) : (s.withCrc32 v).response = s.response := rfl

/-! ### withXcrc -/

@[simp] theorem State.withXcrc_crc16 (s : State) (v : CrcEngine 16) : (s.withXcrc v).crc16 = s.crc16 := rfl
@[simp] theorem State.withXcrc_crc32 (s : State) (v : CrcEngine 16) : (s.withXcrc v).crc32 = s.crc32 := rfl
@[simp] theorem State.withXcrc_xcrc (s : State) (v : CrcEngine 16) : (s.withXcrc v).xcrc = v := rfl
@[simp] theorem State.withXcrc_md5 (s : State) (v : CrcEngine 16) : (s.withXcrc v).md5 = s.md5 := rfl
@[simp] theorem State.withXcrc_key (s : State) (v : CrcEngine 16) : (s.withXcrc v).key = s.key := rfl
@[simp] theorem State.withXcrc_aesState (s : State) (v : CrcEngine 16) : (s.withXcrc v).aesState = s.aesState := rfl
@[simp] theorem State.withXcrc_mode (s : State) (v : CrcEngine 16) : (s.withXcrc v).mode = s.mode := rfl
@[simp] theorem State.withXcrc_padding (s : State) (v : CrcEngine 16) : (s.withXcrc v).padding = s.padding := rfl
@[simp] theorem State.withXcrc_xf (s : State) (v : CrcEngine 16) : (s.withXcrc v).xf = s.xf := rfl
@[simp] theorem State.withXcrc_mem (s : State) (v : CrcEngine 16) : (s.withXcrc v).mem = s.mem := rfl
@[simp] theorem State.withXcrc_link (s : State) (v : CrcEngine 16) : (s.withXcrc v).link = s.link := rfl
@[simp] theorem State.withXcrc_moves (s : State) (v : CrcEngine 16) : (s.withXcrc v).moves = s.moves := rfl
@[simp] theorem State.withXcrc_response (s : State) (v : CrcEngine 16) : (s.withXcrc v).response = s.response := rfl

/-! ### withMd5 -/

@[simp] theorem State.withMd5_crc16 (s : State) (v : Md5Engine) : (s.withMd5 v).crc16 = s.crc16 := rfl
@[simp] theorem State.withMd5_crc32 (s : State) (v : Md5Engine) : (s.withMd5 v).crc32 = s.crc32 := rfl
@[simp] theorem State.withMd5_xcrc (s : State) (v : Md5Engine) : (s.withMd5 v).xcrc = s.xcrc := rfl
@[simp] theorem State.withMd5_md5 (s : State) (v : Md5Engine) : (s.withMd5 v).md5 = v := rfl
@[simp] theorem State.withMd5_key (s : State) (v : Md5Engine) : (s.withMd5 v).key = s.key := rfl
@[simp] theorem State.withMd5_aesState (s : State) (v : Md5Engine) : (s.withMd5 v).aesState = s.aesState := rfl
@[simp] theorem State.withMd5_mode (s : State) (v : Md5Engine) : (s.withMd5 v).mode = s.mode := rfl
@[simp] theorem State.withMd5_padding (s : State) (v : Md5Engine) : (s.withMd5 v).padding = s.padding := rfl
@[simp] theorem State.withMd5_xf (s : State) (v : Md5Engine) : (s.withMd5 v).xf = s.xf := rfl
@[simp] theorem State.withMd5_mem (s : State) (v : Md5Engine) : (s.withMd5 v).mem = s.mem := rfl
@[simp] theorem State.withMd5_link (s : State) (v : Md5Engine) : (s.withMd5 v).link = s.link := rfl
@[simp] theorem State.withMd5_moves (s : State) (v : Md5Engine) : (s.withMd5 v).moves = s.moves := rfl
@[simp] theorem State.withMd5_response (s : State) (v : Md5Engine) : (s.withMd5 v).response = s.response := rfl

/-! ### withKey -/

@[simp] theorem State.withKey_crc16 (s : State) (v : KeySchedule) : (s.withKey v).crc16 = s.crc16 := rfl
@[simp] theorem State.withKey_crc32 (s : State) (v : KeySchedule) : (s.withKey v).crc32 = s.crc32 := rfl
@[simp] theorem State.withKey_xcrc (s : State) (v : KeySchedule) : (s.withKey v).xcrc = s.xcrc := rfl
@[simp] theorem State.withKey_md5 (s : State) (v : KeySchedule) : (s.withKey v).md5 = s.md5 := rfl
@[simp] theorem State.withKey_key (s : State) (v : KeySchedule) : (s.withKey v).key = v := rfl
@[simp] theorem State.withKey_aesState (s : State) (v : KeySchedule) : (s.withKey v).aesState = s.aesState := rfl
@[simp] theorem State.withKey_mode (s : State) (v : KeySchedule) : (s.withKey v).mode = s.mode := rfl
@[simp] theorem State.withKey_padding (s : State) (v : KeySchedule) : (s.withKey v).padding = s.padding := rfl
@[simp] theorem State.withKey_xf (s : State) (v : KeySchedule) : (s.withKey v).xf = s.xf := rfl
@[simp] theorem State.withKey_mem (s : State) (v : KeySchedule) : (s.withKey v).mem = s.mem := rfl
@[simp] theorem State.withKey_link (s : State) (v : KeySchedule) : (s.withKey v).link = s.link := rfl
@[simp] theorem State.withKey_moves (s : State) (v : KeySchedule) : (s.withKey v).moves = s.moves := rfl
@[simp] theorem State.withKey_response (s : State) (v : KeySchedule) : (s.withKey v).response = s.response := rfl

/-! ### withAesState -/

@[simp] theorem State.withAesState_crc16 (s : State) (v : Block) : (s.withAesState v).crc16 = s.crc16 := rfl
@[simp] theorem State.withAesState_crc32 (s : State) (v : Block) : (s.withAesState v).crc32 = s.crc32 := rfl
@[simp] theorem State.withAesState_xcrc (s : State) (v : Block) : (s.withAesState v).xcrc = s.xcrc := rfl
@[simp] theorem State.withAesState_md5 (s : State) (v : Block) : (s.withAesState v).md5 = s.md5 := rfl
@[simp] theorem State.withAesState_key (s : State) (v : Block) : (s.withAesState v).key = s.key := rfl
@[simp] theorem State.withAesState_aesState (s : State) (v : Block) : (s.withAesState v).aesState = v := rfl
@[simp] theorem State.withAesState_mode (s : State) (v : Block) : (s.withAesState v).mode = s.mode := rfl
@[simp] theorem State.withAesState_padding (s : State) (v : Block) : (s.withAesState v).padding = s.padding := rfl
@[simp] theorem State.withAesState_xf (s : State) (v : Block) : (s.withAesState v).xf = s.xf := rfl
@[simp] theorem State.withAesState_mem (s : State) (v : Block) : (s.withAesState v).mem = s.mem := rfl
@[simp] theorem State.withAesState_link (s : State) (v : Block) : (s.withAesState v).link = s.link := rfl
@[simp] theorem State.withAesState_moves (s : State) (v : Block) : (s.withAesState v).moves = s.moves := rfl
@[simp] theorem State.withAesState_response (s : State) (v : Block) : (s.withAesState v).response = s.response := rfl

/-! ### withMode -/

@[simp] theorem State.withMode_crc16 (s : State) (v : CipherMode) : (s.withMode v).crc16 = s.crc16 := rfl
@[simp] theorem State.withMode_crc32 (s : State) (v : CipherMode) : (s.withMode v).crc32 = s.crc32 := rfl
@[simp] theorem State.withMode_xcrc (s : State) (v : CipherMode) : (s.withMode v).xcrc = s.xcrc := rfl
@[simp] theorem State.withMode_md5 (s : State) (v : CipherMode) : (s.withMode v).md5 = s.md5 := rfl
@[simp] theorem State.withMode_key (s : State) (v : CipherMode) : (s.withMode v).key = s.key := rfl
@[simp] theorem State.withMode_aesState (s : State) (v : CipherMode) : (s.withMode v).aesState = s.aesState := rfl
@[simp] theorem State.withMode_mode (s : State) (v : CipherMode) : (s.withMode v).mode = v := rfl
@[simp] theorem State.withMode_padding (s : State) (v : CipherMode) : (s.withMode v).padding = s.padding := rfl
@[simp] theorem State.withMode_xf (s : State) (v : CipherMode) : (s.withMode v).xf = s.xf := rfl
@[simp] theorem State.withMode_mem (s : State) (v : CipherMode) : (s.withMode v).mem = s.mem := rfl
@[simp] theorem State.withMode_link (s : State) (v : CipherMode) : (s.withMode v).link = s.link := rfl
@[simp] theorem State.withMode_moves (s : State) (v : CipherMode) : (s.withMode v).moves = s.moves := rfl
@[simp] theorem State.withMode_response (s : State) (v : CipherMode) : (s.withMode v).response = s.response := rfl

/-! ### withPadding -/

@[simp] theorem State.withPadding_crc16 (s : State) (v : PaddingMode) : (s.withPadding v).crc16 = s.crc16 := rfl
@[simp] theorem State.withPadding_crc32 (s : State) (v : PaddingMode) : (s.withPadding v).crc32 = s.crc32 := rfl
@[simp] theorem State.withPadding_xcrc (s : State) (v : PaddingMode) : (s.withPadding v).xcrc = s.xcrc := rfl
@[simp] theorem State.withPadding_md5 (s : State) (v : PaddingMode) : (s.withPadding v).md5 = s.md5 := rfl
@[simp] theorem State.withPadding_key (s : State) (v : PaddingMode) : (s.withPadding v).key = s.key := rfl
@[simp] theorem State.withPadding_aesState (s : State) (v : PaddingMode) : (s.withPadding v).aesState = s.aesState := rfl
@[simp] theorem State.withPadding_mode (s : State) (v : PaddingMode) : (s.withPadding v).mode = s.mode := rfl
@[simp] theorem State.withPadding_padding (s : State) (v : PaddingMode) : (s.withPadding v).padding = v := rfl
@[simp] theorem State.withPadding_xf (s : State) (v : PaddingMode) : (s.withPadding v).xf = s.xf := rfl
@[simp] theorem State.withPadding_mem (s : State) (v : PaddingMode) : (s.withPadding v).mem = s.mem := rfl
@[simp] theorem State.withPadding_link (s : State) (v : PaddingMode) : (s.withPadding v).link = s.link := rfl
@[simp] theorem State.withPadding_moves (s : State) (v : PaddingMode) : (s.withPadding v).moves = s.moves := rfl
@[simp] theorem State.withPadding_response (s : State) (v : PaddingMode) : (s.withPadding v).response = s.response := rfl

/-! ### withXf -/

@[simp] theorem State.withXf_crc16 (s : State) (v : Session) : (s.withXf v).crc16 = s.crc16 := rfl
@[simp] theorem State.withXf_crc32 (s : State) (v : Session) : (s.withXf v).crc32 = s.crc32 := rfl
@[simp] theorem State.withXf_xcrc (s : State) (v : Session) : (s.withXf v).xcrc = s.xcrc := rfl
@[simp] theorem State.withXf_md5 (s : State) (v : Session) : (s.withXf v).md5 = s.md5 := rfl
@[simp] theorem State.withXf_key (s : State) (v : Session) : (s.withXf v).key = s.key := rfl
@[simp] theorem State.withXf_aesState (s : State) (v : Session) : (s.withXf v).aesState = s.aesState := rfl
@[simp] theorem State.withXf_mode (s : State) (v : Session) : (s.withXf v).mode = s.mode := rfl
@[simp] theorem State.withXf_padding (s : State) (v : Session) : (s.withXf v).padding = s.padding := rfl
@[simp] theorem State.withXf_xf (s : State) (v : Session) : (s.withXf v).xf = v := rfl
@[simp] theorem State.withXf_mem (s : State) (v : Session) : (s.withXf v).mem = s.mem := rfl
@[simp] theorem State.withXf_link (s : State) (v : Session) : (s.withXf v).link = s.link := rfl
@[simp] theorem State.withXf_moves (s : State) (v : Session) : (s.withXf v).moves = s.moves := rfl
@[simp] theorem State.withXf_response (s : State) (v : Session) : (s.withXf v).response = s.response := rfl

/-! ### withMem -/

@[simp] theorem State.withMem_crc16 (s : State) (v : Memory) : (s.withMem v).crc16 = s.crc16 := rfl
@[simp] theorem State.withMem_crc32 (s : State) (v : Memory) : (s.withMem v).crc32 = s.crc32 := rfl
@[simp] theorem State.withMem_xcrc (s : State) (v : Memory) : (s.withMem v).xcrc = s.xcrc := rfl
@[simp] theorem State.withMem_md5 (s : State) (v : Memory) : (s.withMem v).md5 = s.md5 := rfl
@[simp] theorem State.withMem_key (s : State) (v : Memory) : (s.withMem v).key = s.key := rfl
@[simp] theorem State.withMem_aesState (s : State) (v : Memory) : (s.withMem v).aesState = s.aesState := rfl
@[simp] theorem State.withMem_mode (s : State) (v : Memory) : (s.withMem v).mode = s.mode := rfl
@[simp] theorem State.withMem_padding (s : State) (v : Memory) : (s.withMem v).padding = s.padding := rfl
@[simp] theorem State.withMem_xf (s : State) (v : Memory) : (s.withMem v).xf = s.xf := rfl
@[simp] theorem State.withMem_mem (s : State) (v : Memory) : (s.withMem v).mem = v := rfl
@[simp] theorem State.withMem_link (s : State) (v : Memory) : (s.withMem v).link = s.link := rfl
@[simp] theorem State.withMem_moves (s : State) (v : Memory) : (s.withMem v).moves = s.moves := rfl
@[simp] theorem State.withMem_response (s : State) (v : Memory) : (s.withMem v).response = s.response := rfl

/-! ### withLink -/

@[simp] theorem State.withLink_crc16 (s : State) (v : List Word) : (s.withLink v).crc16 = s.crc16 := rfl
@[simp] theorem State.withLink_crc32 (s : State) (v : List Word) : (s.withLink v).crc32 = s.crc32 := rfl
@[simp] theorem State.withLink_xcrc (s : State) (v : List Word) : (s.withLink v).xcrc = s.xcrc := rfl
@[simp] theorem State.withLink_md5 (s : State) (v : List Word) : (s.withLink v).md5 = s.md5 := rfl
@[simp] theorem State.withLink_key (s : State) (v : List Word) : (s.withLink v).key = s.key := rfl
@[simp] theorem State.withLink_aesState (s : State) (v : List Word) : (s.withLink v).aesState = s.aesState := rfl
@[simp] theorem State.withLink_mode (s : State) (v : List Word) : (s.withLink v).mode = s.mode := rfl
@[simp] theorem State.withLink_padding (s : State) (v : List Word) : (s.withLink v).padding = s.padding := rfl
@[simp] theorem State.withLink_xf (s : State) (v : List Word) : (s.withLink v).xf = s.xf := rfl
@[simp] theorem State.withLink_mem (s : State) (v : List Word) : (s.withLink v).mem = s.mem := rfl
@[simp] theorem State.withLink_link (s : State) (v : List Word) : (s.withLink v).link = v := rfl
@[simp] theorem State.withLink_moves (s : State) (v : List Word) : (s.withLink v).moves = s.moves := rfl
@[simp] theorem State.withLink_response (s : State) (v : List Word) : (s.withLink v).response = s.response := rfl

/-! ### withMoves -/

@[simp] theorem State.withMoves_crc16 (s : State) (v : List HostMove) : (s.withMoves v).crc16 = s.crc16 := rfl
@[simp] theorem State.withMoves_crc32 (s : State) (v : List HostMove) : (s.withMoves v).crc32 = s.crc32 := rfl
@[simp] theorem State.withMoves_xcrc (s : State) (v : List HostMove) : (s.withMoves v).xcrc = s.xcrc := rfl
@[simp] theorem State.withMoves_md5 (s : State) (v : List HostMove) : (s.withMoves v).md5 = s.md5 := rfl
@[simp] theorem State.withMoves_key (s : State) (v : List HostMove) : (s.withMoves v).key = s.key := rfl
@[simp] theorem State.withMoves_aesState (s : State) (v : List HostMove) : (s.withMoves v).aesState = s.aesState := rfl
@[simp] theorem State.withMoves_mode (s : State) (v : List HostMove) : (s.withMoves v).mode = s.mode := rfl
@[simp] theorem State.withMoves_padding (s : State) (v : List HostMove) : (s.withMoves v).padding = s.padding := rfl
@[simp] theorem State.withMoves_xf (s : State) (v : List HostMove) : (s.withMoves v).xf = s.xf := rfl
@[simp] theorem State.withMoves_mem (s : State) (v : List HostMove) : (s.withMoves v).mem = s.mem := rfl
@[simp] theorem State.withMoves_link (s : State) (v : List HostMove) : (s.withMoves v).link = s.link := rfl
@[simp] theorem State.withMoves_moves (s : State) (v : List HostMove) : (s.withMoves v).moves = v := rfl
@[simp] theorem State.withMoves_response (s : State) (v : List HostMove) : (s.withMoves v).response = s.response := rfl

/-! ### withResponse -/

@[simp] theorem State.withResponse_crc16 (s : State) (v : Option Response) : (s.withResponse v).crc16 = s.crc16 := rfl
@[simp] theorem State.withResponse_crc32 (s : State) (v : Option Response) : (s.withResponse v).crc32 = s.crc32 := rfl
@[simp] theorem State.withResponse_xcrc (s : State) (v : Option Response) : (s.withResponse v).xcrc = s.xcrc := rfl
@[simp] theorem State.withResponse_md5 (s : State) (v : Option Response) : (s.withResponse v).md5 = s.md5 := rfl
@[simp] theorem State.withResponse_key (s : State) (v : Option Response) : (s.withResponse v).key = s.key := rfl
@[simp] theorem State.withResponse_aesState (s : State) (v : Option Response) : (s.withResponse v).aesState = s.aesState := rfl
@[simp] theorem State.withResponse_mode (s : State) (v : Option Response) : (s.withResponse v).mode = s.mode := rfl
@[simp] theorem State.withResponse_padding (s : State) (v : Option Response) : (s.withResponse v).padding = s.padding := rfl
@[simp] theorem State.withResponse_xf (s : State) (v : Option Response) : (s.withResponse v).xf = s.xf := rfl
@[simp] theorem State.withResponse_mem (s : State) (v : Option Response) : (s.withResponse v).mem = s.mem := rfl
@[simp] theorem State.withResponse_link (s : State) (v : Option Response) : (s.withResponse v).link = s.link := rfl
@[simp] theorem State.withResponse_moves (s : State) (v : Option Response) : (s.withResponse v).moves = s.moves := rfl
@[simp] theorem State.withResponse_response (s : State) (v : Option Response) : (s.withResponse v).response = v := rfl

end Sys2Proof.Machine
end

