-- ==== Sys2Proof/Laws/Memory.lean ====
section
/-! SUPPORT. The laws of the host buffers: read after write, writes leave every other byte alone, and every operation keeps
the canonical form (`20_memory.md` rules R61 to R63). -/

namespace Sys2Proof.Machine

/-! ### Cells -/

/-- Rising addresses. -/
abbrev Rising (cells : List Host.Cell) : Prop := cells.Pairwise (fun x y => x.1 < y.1)

/-- No cell holds the byte an unlisted address reads as. -/
abbrev Listed (cells : List Host.Cell) : Prop := ∀ c ∈ cells, c.2 ≠ unlistedByte

theorem cellAt_of_lt (cells : List Host.Cell) (x : Nat) (h : ∀ c ∈ cells, x < c.1) : cellAt cells x = unlistedByte := by
  induction cells with
  | nil => rfl
  | cons c t ih =>
    have hc := h c (by simp)
    simp only [cellAt]
    rw [if_neg (by omega)]
    exact ih fun d hd => h d (by simp [hd])

theorem mem_setCell {cells : List Host.Cell} {x : Nat} {v : Byte} {c : Host.Cell} (h : c ∈ setCell cells x v) :
    c ∈ cells ∨ (c = (x, v) ∧ v ≠ unlistedByte) := by
  induction cells with
  | nil => simp only [setCell] at h; split at h <;> simp_all
  | cons d t ih =>
    simp only [setCell] at h
    split at h
    · split at h <;> (simp_all; try tauto)
    · split at h
      · split at h <;> (simp_all; try tauto)
      · rcases List.mem_cons.mp h with h | h
        · simp [h]
        · rcases ih h with h | h <;> simp [h]

theorem setCell_rising {cells : List Host.Cell} (h : Rising cells) (x : Nat) (v : Byte) : Rising (setCell cells x v) := by
  induction cells with
  | nil => simp only [setCell]; split <;> simp
  | cons d t ih =>
    obtain ⟨hd, ht⟩ := List.pairwise_cons.mp h
    simp only [setCell]
    split
    · rename_i hx
      split
      · exact h
      · refine List.pairwise_cons.mpr ⟨fun c hc => ?_, h⟩
        rcases List.mem_cons.mp hc with rfl | hc
        · exact hx
        · exact hx.trans (hd c hc)
    · split
      · rename_i he
        split
        · exact ht
        · exact List.pairwise_cons.mpr ⟨fun c hc => by simpa [← he] using hd c hc, ht⟩
      · refine List.pairwise_cons.mpr ⟨fun c hc => ?_, ih ht⟩
        rcases mem_setCell hc with hc | ⟨rfl, -⟩
        · exact hd c hc
        · show d.1 < x
          omega

theorem setCell_listed {cells : List Host.Cell} (h : Listed cells) (x : Nat) (v : Byte) : Listed (setCell cells x v) := by
  intro c hc
  rcases mem_setCell hc with hc | ⟨rfl, hv⟩
  · exact h c hc
  · exact hv

theorem cellAt_setCell {cells : List Host.Cell} (h : Rising cells) (x y : Nat) (v : Byte) :
    cellAt (setCell cells x v) y = if y = x then v else cellAt cells y := by
  induction cells with
  | nil => simp only [setCell]; split <;> (simp only [cellAt]; grind)
  | cons d t ih =>
    obtain ⟨hd, ht⟩ := List.pairwise_cons.mp h
    have hlow : ∀ z, z < d.1 → cellAt t z = unlistedByte :=
      fun z hz => cellAt_of_lt t z fun c hc => hz.trans (hd c hc)
    have hself : cellAt t d.1 = unlistedByte := cellAt_of_lt t d.1 hd
    simp only [setCell]
    split
    · split <;> simp only [cellAt] <;> grind
    · split
      · split <;> simp only [cellAt] <;> grind
      · simp only [cellAt]
        rw [ih ht]
        grind

theorem setCells_rising {cells : List Host.Cell} (h : Rising cells) (a : Nat) (v : List Byte) :
    Rising (setCells cells a v) := by
  induction v generalizing cells a with
  | nil => exact h
  | cons b t ih => exact ih (setCell_rising h a b) (a + 1)

theorem setCells_listed {cells : List Host.Cell} (h : Listed cells) (a : Nat) (v : List Byte) :
    Listed (setCells cells a v) := by
  induction v generalizing cells a with
  | nil => exact h
  | cons b t ih => exact ih (setCell_listed h a b) (a + 1)

theorem mem_setCells {cells : List Host.Cell} {a : Nat} {v : List Byte} {c : Host.Cell} (h : c ∈ setCells cells a v) :
    c ∈ cells ∨ (a ≤ c.1 ∧ c.1 < a + v.length) := by
  induction v generalizing cells a with
  | nil => exact .inl h
  | cons b t ih =>
    rcases ih h with h | h
    · rcases mem_setCell h with h | ⟨rfl, -⟩
      · exact .inl h
      · exact .inr ⟨le_refl _, by simp⟩
    · exact .inr ⟨by omega, by simp; omega⟩

theorem cellAt_setCells {cells : List Host.Cell} (h : Rising cells) (a y : Nat) (v : List Byte) :
    cellAt (setCells cells a v) y = if a ≤ y ∧ y < a + v.length then v.getD (y - a) 0 else cellAt cells y := by
  induction v generalizing cells a with
  | nil => rw [setCells, if_neg (by simp)]
  | cons b t ih =>
    rw [setCells, ih (setCell_rising h a b), cellAt_setCell h]
    by_cases h1 : y = a
    · subst h1; simp
    · by_cases h2 : a + 1 ≤ y ∧ y < a + 1 + t.length
      · rw [if_pos h2, if_pos (by simp; omega), show y - a = (y - (a + 1)) + 1 by omega, List.getD_cons_succ]
      · rw [if_neg h2, if_neg h1, if_neg (by simp; omega)]

/-! ### Buffer lengths -/

theorem lookupLen_mem {l : List (Nat × Nat)} {h n : Nat} (e : lookupLen l h = some n) : (h, n) ∈ l := by
  induction l with
  | nil => simp [lookupLen] at e
  | cons d t ih =>
    simp only [lookupLen] at e
    split at e
    · simp_all [Prod.ext_iff]
    · exact List.mem_cons_of_mem _ (ih e)

theorem lookupLen_setLen {l : List (Nat × Nat)} (hl : l.Pairwise (fun x y => x.1 < y.1)) (h n k : Nat) :
    lookupLen (setLen l h n) k = if k = h then some n else lookupLen l k := by
  induction l with
  | nil => simp [setLen, lookupLen, eq_comm]
  | cons d t ih =>
    obtain ⟨hd, ht⟩ := List.pairwise_cons.mp hl
    simp only [setLen]
    split
    · simp only [lookupLen]; grind
    · split <;> simp only [lookupLen]
      · grind
      · rw [ih ht]; grind

theorem mem_setLen {l : List (Nat × Nat)} {h n : Nat} {b : Nat × Nat} (e : b ∈ setLen l h n) : b ∈ l ∨ b = (h, n) := by
  induction l with
  | nil => simp_all [setLen]
  | cons d t ih =>
    simp only [setLen] at e
    split at e
    · simp_all; tauto
    · split at e
      · simp_all; tauto
      · rcases List.mem_cons.mp e with e | e
        · simp [e]
        · rcases ih e with e | e <;> simp [e]

theorem setLen_rising {l : List (Nat × Nat)} (hl : l.Pairwise (fun x y => x.1 < y.1)) (h n : Nat) :
    (setLen l h n).Pairwise (fun x y => x.1 < y.1) := by
  induction l with
  | nil => simp [setLen]
  | cons d t ih =>
    obtain ⟨hd, ht⟩ := List.pairwise_cons.mp hl
    simp only [setLen]
    split
    · rename_i hx
      refine List.pairwise_cons.mpr ⟨fun c hc => ?_, hl⟩
      rcases List.mem_cons.mp hc with rfl | hc
      · exact hx
      · exact hx.trans (hd c hc)
    · split
      · rename_i he
        exact List.pairwise_cons.mpr ⟨fun c hc => by simpa [← he] using hd c hc, ht⟩
      · refine List.pairwise_cons.mpr ⟨fun c hc => ?_, ih ht⟩
        rcases mem_setLen hc with hc | rfl
        · exact hd c hc
        · show d.1 < h
          omega

theorem lookupLen_filter (l : List (Nat × Nat)) (h k : Nat) :
    lookupLen (l.filter (fun b => b.1 ≠ h)) k = if k = h then none else lookupLen l k := by
  induction l with
  | nil => simp [lookupLen]
  | cons d t ih =>
    by_cases hd : d.1 = h
    · rw [List.filter_cons_of_neg (by simpa using hd), ih]; simp only [lookupLen]; grind
    · rw [List.filter_cons_of_pos (by simpa using hd)]; simp only [lookupLen]; rw [ih]; grind

theorem wf_bufLen {m : Memory} (hm : m.wf) {h n : Nat} (e : m.bufLen h = some n) : h < bufferSpan ∧ n < bufferSpan :=
  hm.2.2.2.1 _ (lookupLen_mem e)

/-! ### Addresses -/

theorem bufferAddress_div {h i : Nat} (hi : i < bufferSpan) : bufferAddress h i / bufferSpan = h := by
  simp only [bufferAddress, bufferSpan] at *; omega

theorem bufferAddress_mod {h i : Nat} (hi : i < bufferSpan) : bufferAddress h i % bufferSpan = i := by
  simp only [bufferAddress, bufferSpan] at *; omega

/-! ### Reading -/

@[simp] theorem Memory.bytes_length (m : Memory) (h i n : Nat) : (m.bytes h i n).length = n := by
  induction n generalizing i with
  | zero => rfl
  | succ n ih => simp [Memory.bytes, ih]

theorem Memory.bytes_getD (m : Memory) (h i n k : Nat) (hk : k < n) : (m.bytes h i n).getD k 0 = m.byte h (i + k) := by
  induction n generalizing i k with
  | zero => omega
  | succ n ih =>
    cases k with
    | zero => simp [Memory.bytes]
    | succ k => rw [Memory.bytes, List.getD_cons_succ, ih (i + 1) k (by omega)]; congr 1; omega

/-- Two memories that agree on the bytes of a range give the same bytes. -/
theorem Memory.bytes_congr {m m' : Memory} {h i n : Nat} (e : ∀ k, k < n → m.byte h (i + k) = m'.byte h (i + k)) :
    m.bytes h i n = m'.bytes h i n := by
  induction n generalizing i with
  | zero => rfl
  | succ n ih =>
    simp only [Memory.bytes]
    congr 1
    · simpa using e 0 (by omega)
    · exact ih fun k hk => by simpa [Nat.add_assoc, Nat.add_comm 1 k] using e (k + 1) (by omega)

theorem Memory.bytes_append (m : Memory) (h i n k : Nat) : m.bytes h i (n + k) = m.bytes h i n ++ m.bytes h (i + n) k := by
  induction n generalizing i with
  | zero => simp [Memory.bytes]
  | succ n ih => rw [show n + 1 + k = (n + k) + 1 by omega]; simp only [Memory.bytes]; rw [ih]; simp [Nat.add_assoc, Nat.add_comm 1 n]

/-- What MemRead answers: the bytes of the range, where the range lies in the buffer. -/
theorem Memory.read_eq_some_iff (m : Memory) (h i n : Nat) (data : List Byte) :
    m.read h i n = some data ↔ ∃ len, m.bufLen h = some len ∧ i + n ≤ len ∧ data = m.bytes h i n := by
  unfold Memory.read
  cases m.bufLen h with
  | none => simp
  | some len =>
    by_cases hle : i + n ≤ len
    · simp [hle, eq_comm]
    · simp [hle]

/-! ### Writing -/

theorem Memory.write_eq_some_iff (m : Memory) (h i : Nat) (v : List Byte) (m' : Memory) :
    m.write h i v = some m' ↔ ∃ len, m.bufLen h = some len ∧ i + v.length ≤ len ∧
      m' = { m with cells := setCells m.cells (bufferAddress h i) v } := by
  unfold Memory.write
  cases m.bufLen h with
  | none => simp
  | some len =>
    by_cases hle : i + v.length ≤ len
    · simp [hle, eq_comm]
    · simp [hle]

theorem Memory.write_bufLen {m m' : Memory} {h i : Nat} {v : List Byte} (e : m.write h i v = some m') (k : Nat) :
    m'.bufLen k = m.bufLen k := by
  obtain ⟨len, -, -, rfl⟩ := (m.write_eq_some_iff h i v m').mp e
  rfl

/-- MemWrite in a canonical memory: the written bytes read back, every other byte of every buffer is unchanged. -/
theorem Memory.byte_write {m m' : Memory} (hm : m.wf) {h i : Nat} {v : List Byte} (e : m.write h i v = some m')
    (k j : Nat) (hj : j < bufferSpan) :
    m'.byte k j = if k = h ∧ i ≤ j ∧ j < i + v.length then v.getD (j - i) 0 else m.byte k j := by
  obtain ⟨len, hlen, hle, rfl⟩ := (m.write_eq_some_iff h i v m').mp e
  have hn := (wf_bufLen hm hlen).2
  simp only [Memory.byte, cellAt_setCells hm.1]
  by_cases hc : k = h ∧ i ≤ j ∧ j < i + v.length
  · obtain ⟨rfl, h1, h2⟩ := hc
    rw [if_pos (by simp only [bufferAddress]; omega), if_pos ⟨rfl, h1, h2⟩]
    congr 1
    simp only [bufferAddress]; omega
  · rw [if_neg, if_neg hc]
    simp only [bufferAddress, bufferSpan] at *
    omega

theorem Memory.write_wf {m m' : Memory} (hm : m.wf) {h i : Nat} {v : List Byte} (e : m.write h i v = some m') : m'.wf := by
  obtain ⟨len, hlen, hle, rfl⟩ := (m.write_eq_some_iff h i v m').mp e
  have hn := (wf_bufLen hm hlen).2
  obtain ⟨h1, h2, h3, h4, h5⟩ := hm
  refine ⟨setCells_rising h1 _ _, setCells_listed h2 _ _, h3, h4, fun c hc => ?_⟩
  rcases mem_setCells hc with hc | ⟨ha, hb⟩
  · exact h5 c hc
  · have hdiv : c.1 / bufferSpan = h := by simp only [bufferAddress, bufferSpan] at *; omega
    have hmod : c.1 % bufferSpan < len := by simp only [bufferAddress, bufferSpan] at *; omega
    rw [hdiv]
    show c.1 % bufferSpan < (m.bufLen h).getD 0
    simpa [hlen] using hmod

/-! ### Host moves -/

theorem Memory.drop_bufLen (m : Memory) (h k : Nat) : (m.drop h).bufLen k = if k = h then none else m.bufLen k :=
  lookupLen_filter m.bufs h k

theorem Memory.drop_wf {m : Memory} (hm : m.wf) (h : Nat) : (m.drop h).wf := by
  obtain ⟨h1, h2, h3, h4, h5⟩ := hm
  refine ⟨h1.filter _, fun c hc => h2 c (List.mem_of_mem_filter hc), h3.filter _,
    fun b hb => h4 b (List.mem_of_mem_filter hb), fun c hc => ?_⟩
  have hne : c.1 / bufferSpan ≠ h := by simpa using (List.mem_filter.mp hc).2
  rw [Memory.drop_bufLen, if_neg hne]
  exact h5 c (List.mem_of_mem_filter hc)

theorem Memory.put_bufLen {m : Memory} (hm : m.wf) (h k : Nat) (v : List Byte) :
    (m.put h v).bufLen k = if k = h then some v.length else m.bufLen k :=
  lookupLen_setLen hm.2.2.1 h v.length k

theorem cellAt_filter (cells : List Host.Cell) (p : Nat → Bool) (x : Nat) (hx : p x = true) :
    cellAt (cells.filter (fun c => p c.1)) x = cellAt cells x := by
  induction cells with
  | nil => rfl
  | cons d t ih =>
    by_cases hd : p d.1 = true
    · simp only [List.filter_cons, hd, if_true, cellAt, ih]
    · simp only [List.filter_cons, hd, cellAt]; grind

/-- A buffer the host writes reads back as written, and every byte of every other buffer is unchanged. -/
theorem Memory.byte_put {m : Memory} (hm : m.wf) (h : Nat) (v : List Byte) (hv : v.length < bufferSpan) (k j : Nat)
    (hj : j < bufferSpan) :
    (m.put h v).byte k j = if k = h then v.getD j 0 else m.byte k j := by
  have hr : Rising (m.drop h).cells := (Memory.drop_wf hm h).1
  simp only [Memory.byte, Memory.put, cellAt_setCells hr]
  by_cases hk : k = h
  · subst hk
    rw [if_pos rfl]
    by_cases hlt : j < v.length
    · rw [if_pos (by simp only [bufferAddress]; omega)]
      congr 1
      simp only [bufferAddress]; omega
    · rw [if_neg (by simp only [bufferAddress]; omega), List.getD_eq_default _ _ (by omega)]
      have hnot : ∀ cells : List Host.Cell,
          cellAt (cells.filter (fun c => c.1 / bufferSpan ≠ k)) (bufferAddress k j) = unlistedByte := by
        intro cells
        induction cells with
        | nil => rfl
        | cons d t ih =>
          by_cases hd : d.1 / bufferSpan = k
          · rw [List.filter_cons_of_neg (by simpa using hd), ih]
          · rw [List.filter_cons_of_pos (by simpa using hd)]
            simp only [cellAt]
            rw [if_neg, ih]
            intro he
            exact hd (he ▸ bufferAddress_div hj)
      exact hnot m.cells
  · rw [if_neg hk, if_neg (by simp only [bufferAddress, bufferSpan] at *; omega)]
    have := cellAt_filter m.cells (fun a => decide (a / bufferSpan ≠ h)) (bufferAddress k j)
      (by simpa [bufferAddress_div hj] using hk)
    simpa [Memory.drop] using this

theorem Memory.put_wf {m : Memory} (hm : m.wf) (h : Nat) (v : List Byte) (hh : h < bufferSpan) (hv : v.length < bufferSpan) :
    (m.put h v).wf := by
  have hd := Memory.drop_wf hm h
  refine ⟨setCells_rising hd.1 _ _, setCells_listed hd.2.1 _ _, setLen_rising hm.2.2.1 _ _, fun b hb => ?_, fun c hc => ?_⟩
  · rcases mem_setLen hb with hb | rfl
    · exact hm.2.2.2.1 b hb
    · exact ⟨hh, hv⟩
  · rw [Memory.put_bufLen hm]
    rcases mem_setCells hc with hc | ⟨ha, hb⟩
    · have := hd.2.2.2.2 c hc
      rw [Memory.drop_bufLen] at this
      split at this
      · simp at this
      · rw [if_neg ‹_›]; exact this
    · have hdiv : c.1 / bufferSpan = h := by simp only [bufferAddress, bufferSpan] at *; omega
      have hmod : c.1 % bufferSpan < v.length := by simp only [bufferAddress, bufferSpan] at *; omega
      rw [if_pos hdiv]
      simpa using hmod

theorem reset_mem_wf : State.reset.mem.wf := by decide

end Sys2Proof.Machine
end

