-- ==== Sys2Proof/Laws/Ops.lean ====
section
/-! SUPPORT. What each shared operation can do, said once: the operands and their checks, the endings of a command, the
block sequences of a session. Later proofs cite these and do not unfold the operations. -/

namespace Sys2Proof.Machine

/-! ### Endings of a command -/

@[simp] theorem raise_ne_fault (e : Err) (s : State) (f : Fault) : raise e s ≠ .fault f := by simp [raise]

@[simp] theorem respond_ne_fault (v : Word) (out : List Byte) (s : State) (f : Fault) : respond v out s ≠ .fault f := by
  simp [respond]

theorem raise_eq_next (e : Err) (s t : State) : raise e s = .next t ↔ t = s.withResponse (some (.error e)) := by
  simp [raise, eq_comm]

theorem respond_eq_next (v : Word) (out : List Byte) (s t : State) :
    respond v out s = .next t ↔ t = s.withResponse (some (.ok v out)) := by
  simp [respond, eq_comm]

/-- Two writes of the response: the second stays. -/
@[simp] theorem withResponse_withResponse (s : State) (r q : Option Response) :
    (s.withResponse r).withResponse q = s.withResponse q := rfl

/-- A command given as its checks and its effect raises the checks' error or goes on. -/
theorem orRaise_cases {α : Type} (s : State) (r : Except Err α) (k : α → Result) :
    (∃ e, r = .error e ∧ orRaise s r k = raise e s) ∨ (∃ a, r = .ok a ∧ orRaise s r k = k a) := by
  cases r with
  | error e => exact .inl ⟨e, rfl, rfl⟩
  | ok a => exact .inr ⟨a, rfl, rfl⟩

/-- The bytes of a range that lies in its buffer. -/
theorem withBytes_of_le {m : Memory} {h i n len : Nat} (hl : m.bufLen h = some len) (hle : i + n ≤ len)
    (k : List Byte → Result) : withBytes m h i n k = k (m.bytes h i n) := by
  have : m.read h i n = some (m.bytes h i n) := (m.read_eq_some_iff h i n _).mpr ⟨len, hl, hle, rfl⟩
  simp only [withBytes, this]

/-! ### Operands -/

/-- The `s32` reading is the two's-complement value. -/
theorem s32_eq_toInt (x : Word) : s32 x = x.toInt := by
  have h : x.toNat < 2 ^ 32 := x.isLt
  simp only [s32, BitVec.extractLsb'_toNat, BitVec.toInt, Nat.shiftRight_eq_div_pow]
  norm_num
  split <;> omega

theorem s32_lt (x : Word) : s32 x < 2 ^ 31 := by
  rw [s32_eq_toInt]; have := BitVec.toInt_lt (x := x); simpa using this

theorem imm16_eq_some_iff (imm : Word) (v : BitVec 16) : imm16 imm = some v ↔ imm.toNat < 2 ^ 16 ∧ v = imm.setWidth 16 := by
  have h : imm.toNat < 2 ^ 32 := imm.isLt
  have hz : imm.extractLsb' 16 16 = 0 ↔ imm.toNat < 2 ^ 16 := by
    rw [← BitVec.toNat_inj]
    simp only [BitVec.extractLsb'_toNat, BitVec.ofNat_eq_ofNat, BitVec.toNat_ofNat]
    norm_num
    omega
  have hv : imm.extractLsb' 0 16 = imm.setWidth 16 := by
    rw [← BitVec.toNat_inj]; simp
  by_cases hc : imm.toNat < 2 ^ 16
  · simp only [imm16, hz.mpr hc, if_true, hv, Option.some.injEq, hc, true_and, eq_comm]
  · have : ¬ imm.extractLsb' 16 16 = 0 := fun e => hc (hz.mp e)
    simp only [imm16, this, if_false, reduceCtorEq, false_iff]
    exact fun e => hc e.1

theorem namedBuffer_eq_some_iff (m : Memory) (d : Descriptor) (h n : Nat) :
    namedBuffer m d = some (h, n) ↔ d.valid = true ∧ h = d.handle.toNat ∧ m.bufLen h = some n := by
  unfold namedBuffer
  cases d.valid with
  | false => simp
  | true =>
    cases hb : m.bufLen d.handle.toNat with
    | none => simp; rintro rfl; simp [hb]
    | some k => simp [eq_comm]; grind

/-- The range check passes exactly where rule R265 lets it. -/
theorem checkRange_eq_ok_iff (m : Memory) (d : Descriptor) (off cnt : Word) (r : Span) :
    checkRange m d off cnt = .ok r ↔ d.valid = true ∧ ∃ n, m.bufLen d.handle.toNat = some n ∧ 0 ≤ s32 off ∧
      0 ≤ s32 cnt ∧ s32 off + s32 cnt ≤ n ∧ r = ⟨d.handle.toNat, (s32 off).toNat, (s32 cnt).toNat⟩ := by
  unfold checkRange
  cases hb : namedBuffer m d with
  | none =>
    simp only [reduceCtorEq, false_iff]
    rintro ⟨hv, n, hn, -⟩
    have := (namedBuffer_eq_some_iff m d _ n).mpr ⟨hv, rfl, hn⟩
    simp [hb] at this
  | some p =>
    obtain ⟨h, n⟩ := p
    obtain ⟨hv, rfl, hn⟩ := (namedBuffer_eq_some_iff m d h n).mp hb
    simp only [hv, hn, Option.some.injEq, exists_eq_left', true_and]
    split
    · simp; omega
    · split
      · simp; omega
      · simp only [Except.ok.injEq]
        exact ⟨fun e => ⟨by omega, by omega, by omega, e.symm⟩, fun e => e.2.2.2.symm⟩

/-- A range that passed its check lies in its buffer. -/
theorem checkRange_ok_le {m : Memory} {d : Descriptor} {off cnt : Word} {r : Span} (h : checkRange m d off cnt = .ok r) :
    ∃ n, m.bufLen r.handle = some n ∧ r.off + r.len ≤ n := by
  obtain ⟨-, n, hn, h1, h2, h3, rfl⟩ := (checkRange_eq_ok_iff m d off cnt r).mp h
  exact ⟨n, hn, by simp only; omega⟩

theorem updateChecks_eq_ok_iff (lc : HashLc) (m : Memory) (d : Descriptor) (off cnt : Word) (r : Span) :
    updateChecks lc m d off cnt = .ok r ↔ lc ≠ .finalized ∧ checkRange m d off cnt = .ok r := by
  unfold updateChecks
  by_cases h : lc = .finalized <;> simp [h]

/-- The argument checks of XF_BLOCK pass exactly where rule R232 lets them. -/
theorem checkBlockRanges_eq_ok_iff (m : Memory) (din : Descriptor) (inOff inCount : Word) (dout : Descriptor)
    (outOff : Word) (r : Span × Nat × Nat) :
    checkBlockRanges m din inOff inCount dout outOff = .ok r ↔
      din.valid = true ∧ dout.valid = true ∧ ∃ nin nout, m.bufLen din.handle.toNat = some nin ∧
        m.bufLen dout.handle.toNat = some nout ∧ 0 ≤ s32 inOff ∧ 0 ≤ s32 inCount ∧ 0 ≤ s32 outOff ∧
        s32 inOff + s32 inCount ≤ nin ∧ s32 outOff + s32 inCount ≤ nout ∧
        ¬(din.handle = dout.handle ∧ rangesIntersect (s32 inOff) (s32 outOff) (s32 inCount) = true) ∧
        s32 inCount % 16 = 0 ∧
        r = (⟨din.handle.toNat, (s32 inOff).toNat, (s32 inCount).toNat⟩, dout.handle.toNat, (s32 outOff).toNat) := by
  unfold checkBlockRanges
  cases hi : namedBuffer m din with
  | none =>
    simp only [reduceCtorEq, false_iff]
    rintro ⟨hv, -, n, -, hn, -⟩
    simp [(namedBuffer_eq_some_iff m din _ n).mpr ⟨hv, rfl, hn⟩] at hi
  | some p =>
    cases ho : namedBuffer m dout with
    | none =>
      simp only [reduceCtorEq, false_iff]
      rintro ⟨-, hv, -, n, -, hn, -⟩
      simp [(namedBuffer_eq_some_iff m dout _ n).mpr ⟨hv, rfl, hn⟩] at ho
    | some q =>
      obtain ⟨h, n⟩ := p
      obtain ⟨h', n'⟩ := q
      obtain ⟨hv, rfl, hn⟩ := (namedBuffer_eq_some_iff m din h n).mp hi
      obtain ⟨hv', rfl, hn'⟩ := (namedBuffer_eq_some_iff m dout h' n').mp ho
      have hh : din.handle.toNat = dout.handle.toNat ↔ din.handle = dout.handle := BitVec.toNat_inj
      have hex : ∀ P : Nat → Nat → Prop,
          (∃ nin nout, some n = some nin ∧ some n' = some nout ∧ P nin nout) ↔ P n n' := by
        intro P; simp
      simp only [hv, hv', hn, hn', true_and, hh]
      rw [hex fun nin nout => _]
      split
      · simp only [reduceCtorEq, false_iff]; omega
      · split
        · simp only [reduceCtorEq, false_iff]; omega
        · split
          · simp only [reduceCtorEq, false_iff]; omega
          · split
            · simp only [reduceCtorEq, false_iff]; tauto
            · split
              · simp only [reduceCtorEq, false_iff]; tauto
              · simp only [Except.ok.injEq]
                constructor
                · intro e; exact ⟨by omega, by omega, by omega, by omega, by omega, by assumption, by omega, e.symm⟩
                · intro e; exact e.2.2.2.2.2.2.2.symm

theorem checkKeyLength_eq_ok_iff (h n : Nat) (r : Nat × Nat) :
    checkKeyLength h n = .ok r ↔ (n = 16 ∨ n = 24 ∨ n = 32) ∧ r = (h, n) := by
  unfold checkKeyLength
  split <;> simp_all [eq_comm]

theorem checkKey_eq_ok_iff (m : Memory) (d : Descriptor) (r : Nat × Nat) :
    checkKey m d = .ok r ↔ d.valid = true ∧ ∃ n, m.bufLen d.handle.toNat = some n ∧ (n = 16 ∨ n = 24 ∨ n = 32) ∧
      r = (d.handle.toNat, n) := by
  unfold checkKey
  cases hb : namedBuffer m d with
  | none =>
    simp only [reduceCtorEq, false_iff]
    rintro ⟨hv, n, hn, -⟩
    simp [(namedBuffer_eq_some_iff m d _ n).mpr ⟨hv, rfl, hn⟩] at hb
  | some p =>
    obtain ⟨h, n⟩ := p
    obtain ⟨hv, rfl, hn⟩ := (namedBuffer_eq_some_iff m d h n).mp hb
    simp [hv, hn, checkKeyLength_eq_ok_iff]

theorem checkKeyIv_eq_ok_iff (m : Memory) (dk div : Descriptor) (r : (Nat × Nat) × (Nat × Nat)) :
    checkKeyIv m dk div = .ok r ↔ dk.valid = true ∧ div.valid = true ∧ ∃ n v, m.bufLen dk.handle.toNat = some n ∧
      m.bufLen div.handle.toNat = some v ∧ (n = 16 ∨ n = 24 ∨ n = 32) ∧
      r = ((dk.handle.toNat, n), (div.handle.toNat, v)) := by
  unfold checkKeyIv
  cases hb : namedBuffer m dk with
  | none =>
    simp only [reduceCtorEq, false_iff]
    rintro ⟨hv, -, n, -, hn, -⟩
    simp [(namedBuffer_eq_some_iff m dk _ n).mpr ⟨hv, rfl, hn⟩] at hb
  | some p =>
    cases hi : namedBuffer m div with
    | none =>
      simp only [reduceCtorEq, false_iff]
      rintro ⟨-, hv, -, n, -, hn, -⟩
      simp [(namedBuffer_eq_some_iff m div _ n).mpr ⟨hv, rfl, hn⟩] at hi
    | some q =>
      obtain ⟨h, n⟩ := p
      obtain ⟨h', n'⟩ := q
      obtain ⟨hv, rfl, hn⟩ := (namedBuffer_eq_some_iff m dk h n).mp hb
      obtain ⟨hv', rfl, hn'⟩ := (namedBuffer_eq_some_iff m div h' n').mp hi
      have hex : ∀ P : Nat → Nat → Prop,
          (∃ k v, some n = some k ∧ some n' = some v ∧ P k v) ↔ P n n' := by
        intro P; simp
      simp only [hv, hv', hn, hn', true_and]
      rw [hex fun k v => _]
      cases hk : checkKeyLength dk.handle.toNat n with
      | error e =>
        simp only [reduceCtorEq, false_iff]
        rintro ⟨hc, -⟩
        simp [(checkKeyLength_eq_ok_iff dk.handle.toNat n _).mpr ⟨hc, rfl⟩] at hk
      | ok a =>
        obtain ⟨hc, rfl⟩ := (checkKeyLength_eq_ok_iff _ _ _).mp hk
        simp [hc, eq_comm]

/-! ### Sequences of blocks -/

@[simp] theorem Block.bytes_length (x : Block) : x.bytes.length = 16 := rfl

theorem Block.load_bytes (x : Block) (t : List Byte) : Block.load (x.bytes ++ t) = x := rfl

@[simp] theorem bytesOf_length (l : List Block) : (bytesOf l).length = 16 * l.length := by
  induction l with
  | nil => rfl
  | cons b t ih => simp [bytesOf, ih]; omega

theorem bytesOf_append (l k : List Block) : bytesOf (l ++ k) = bytesOf l ++ bytesOf k := by
  induction l with
  | nil => rfl
  | cons b t ih => simp [bytesOf, ih]

@[simp] theorem blocksOf_length (k : Nat) (l : List Byte) : (blocksOf k l).length = k := by
  induction k generalizing l with
  | zero => rfl
  | succ k ih => simp [blocksOf, ih]

/-- Cutting the bytes of blocks gives the blocks back. -/
theorem blocksOf_bytesOf (l : List Block) (t : List Byte) : blocksOf l.length (bytesOf l ++ t) = l := by
  induction l with
  | nil => rfl
  | cons b r ih =>
    have hd : (b.bytes ++ (bytesOf r ++ t)).drop 16 = bytesOf r ++ t := by
      rw [List.drop_append]; simp
    simp only [List.length_cons, bytesOf, List.append_assoc, blocksOf, Block.load_bytes, hd, ih]

/-- Blocks of a sequence whose first part is whole blocks. -/
theorem blocksOf_append (a b : Nat) (l t : List Byte) (h : l.length = 16 * a) :
    blocksOf (a + b) (l ++ t) = blocksOf a l ++ blocksOf b t := by
  induction a generalizing l with
  | zero => simp at h; subst h; simp [blocksOf]
  | succ a ih =>
    rw [show a + 1 + b = (a + b) + 1 by omega]
    have h16 : 16 ≤ l.length := by omega
    simp only [blocksOf, List.cons_append]
    rw [List.drop_append_of_le_length h16, ih (l.drop 16) (by simp; omega)]
    congr 1
    match l, h16 with
    | _ :: _ :: _ :: _ :: _ :: _ :: _ :: _ :: _ :: _ :: _ :: _ :: _ :: _ :: _ :: _ :: _, _ => rfl

/-- Whole blocks put together again give the bytes. -/
theorem bytesOf_blocksOf (k : Nat) (l : List Byte) (h : l.length = 16 * k) : bytesOf (blocksOf k l) = l := by
  induction k generalizing l with
  | zero => simp at h; simp [h, blocksOf, bytesOf]
  | succ k ih =>
    have h16 : 16 ≤ l.length := by omega
    simp only [blocksOf, bytesOf]
    rw [ih _ (by simp; omega)]
    match l, h16 with
    | _ :: _ :: _ :: _ :: _ :: _ :: _ :: _ :: _ :: _ :: _ :: _ :: _ :: _ :: _ :: _ :: _, _ => rfl

@[simp] theorem runBlocks_length (op : Block → Block → Block × Block) (fb : Block) (l : List Block) :
    (runBlocks op fb l).1.length = l.length := by
  induction l generalizing fb with
  | nil => rfl
  | cons b t ih => simp [runBlocks, ih]

theorem runBlocks_append (op : Block → Block → Block × Block) (fb : Block) (l k : List Block) :
    runBlocks op fb (l ++ k) =
      ((runBlocks op fb l).1 ++ (runBlocks op (runBlocks op fb l).2 k).1, (runBlocks op (runBlocks op fb l).2 k).2) := by
  induction l generalizing fb with
  | nil => rfl
  | cons b t ih => simp [runBlocks, ih]

theorem Session.held_length_le (x : Session) : x.held.length ≤ 1 := by
  unfold Session.held; split <;> simp

/-- XF_BLOCK never puts out more blocks than it took (`44_transform.md` rule R233). -/
theorem Session.transform_length_le (k : KeySchedule) (x : Session) (l : List Block) :
    (x.transform k l).2.length ≤ l.length := by
  have hh := x.held_length_le
  unfold Session.transform
  split
  · simp [encBlocks]
  · split
    · simp
    · rename_i last hl
      have : l ≠ [] := by rintro rfl; simp at hl
      have := List.length_pos_iff.mpr this
      simp [decBlocks]; omega
  · simp [decBlocks]

/-- The session's own mode, padding and direction outlive a transformation. -/
theorem Session.transform_fields (k : KeySchedule) (x : Session) (l : List Block) :
    (x.transform k l).1.dir = x.dir ∧ (x.transform k l).1.smode = x.smode ∧ (x.transform k l).1.spad = x.spad := by
  unfold Session.transform
  split
  · exact ⟨rfl, rfl, rfl⟩
  · split <;> exact ⟨rfl, rfl, rfl⟩
  · exact ⟨rfl, rfl, rfl⟩

/-- What PKCS7 removal accepts (rule R237). -/
theorem unpadPkcs7_eq_ok_iff (out res : List Byte) :
    unpadPkcs7 out = .ok res ↔ ∃ n : Byte, out.getLast? = some n ∧ 1 ≤ n.toNat ∧ n.toNat ≤ 16 ∧
      res = out.take (out.length - n.toNat) := by
  unfold unpadPkcs7
  cases out.getLast? with
  | none => simp
  | some n =>
    by_cases h : 1 ≤ n.toNat ∧ n.toNat ≤ 16
    · simp [h, eq_comm]
    · simp only [h, if_false, reduceCtorEq, false_iff, Option.some.injEq]
      rintro ⟨k, rfl, h1, h2, -⟩
      exact h ⟨h1, h2⟩

/-! ### The shared bodies of commands -/

/-- What a CRC UPDATE can do (`41_crc.md` rule R133): raise a check's error, or step once per byte of the range. -/
theorem crcUpdate_cases {w : Nat} (step : BitVec w → Byte → BitVec w) (e : CrcEngine w) (put : CrcEngine w → State)
    (d : Descriptor) (off cnt : Word) (s : State) :
    (∃ err, updateChecks e.lc s.mem d off cnt = .error err ∧ crcUpdate step e put d off cnt s = raise err s) ∨
    (∃ r, updateChecks e.lc s.mem d off cnt = .ok r ∧
      crcUpdate step e put d off cnt s = respond 0 [] (put (e.update step (s.mem.bytes r.handle r.off r.len)))) := by
  rcases orRaise_cases s (updateChecks e.lc s.mem d off cnt) (fun r =>
    withBytes s.mem r.handle r.off r.len fun data => respond 0 [] (put (e.update step data))) with ⟨err, h, h'⟩ | ⟨r, h, h'⟩
  · exact .inl ⟨err, h, h'⟩
  · obtain ⟨n, hn, hle⟩ := checkRange_ok_le ((updateChecks_eq_ok_iff _ _ _ _ _ _).mp h).2
    exact .inr ⟨r, h, h'.trans (withBytes_of_le hn hle _)⟩

/-- What MD5_UPDATE can do (`42_md5.md` rule R165). -/
theorem execMd5Update_cases (d : Descriptor) (off cnt : Word) (s : State) :
    (∃ err, updateChecks s.md5.lc s.mem d off cnt = .error err ∧ execMd5Update d off cnt s = raise err s) ∨
    (∃ r, updateChecks s.md5.lc s.mem d off cnt = .ok r ∧ execMd5Update d off cnt s =
      respond 0 [] (s.withMd5 (s.md5.update (s.mem.bytes r.handle r.off r.len)))) := by
  rcases orRaise_cases s (updateChecks s.md5.lc s.mem d off cnt) (fun r =>
    withBytes s.mem r.handle r.off r.len fun data => respond 0 [] (s.withMd5 (s.md5.update data))) with
    ⟨err, h, h'⟩ | ⟨r, h, h'⟩
  · exact .inl ⟨err, h, h'⟩
  · obtain ⟨n, hn, hle⟩ := checkRange_ok_le ((updateChecks_eq_ok_iff _ _ _ _ _ _).mp h).2
    exact .inr ⟨r, h, h'.trans (withBytes_of_le hn hle _)⟩

/-- What AES_KEYEXP can do (`43_aes_core.md` rule R200). -/
theorem execAesKeyexp_cases (k : Descriptor) (s : State) :
    (∃ err, keyexpChecks s k = .error err ∧ execAesKeyexp k s = raise err s) ∨
    (∃ r, keyexpChecks s k = .ok r ∧
      execAesKeyexp k s = respond 0 [] (s.withKey (keyExpansion (s.mem.bytes r.1 0 r.2)))) := by
  rcases orRaise_cases s (keyexpChecks s k) (fun r =>
    withBytes s.mem r.1 0 r.2 fun key => respond 0 [] (s.withKey (keyExpansion key))) with ⟨err, h, h'⟩ | ⟨r, h, h'⟩
  · exact .inl ⟨err, h, h'⟩
  · have hc : checkKey s.mem k = .ok r := by
      unfold keyexpChecks at h; split at h <;> simp_all
    obtain ⟨-, n, hn, -, rfl⟩ := (checkKey_eq_ok_iff s.mem k r).mp hc
    exact .inr ⟨_, h, h'.trans (withBytes_of_le hn (by simp) _)⟩

/-- What a session creation can do (`44_transform.md` rule R224). -/
theorem xfCreate_cases (dir : Dir) (key iv : Descriptor) (s : State) :
    (∃ err, createChecks s key iv = .error err ∧ xfCreate dir key iv s = raise err s) ∨
    (∃ r, createChecks s key iv = .ok r ∧ xfCreate dir key iv s =
      respond 0 [] ((s.withKey (keyExpansion (s.mem.bytes r.1.1 0 r.1.2))).withXf
        (Session.create dir s.mode s.padding (ivToBlock (s.mem.bytes r.2.1 0 (min r.2.2 16)))))) := by
  rcases orRaise_cases s (createChecks s key iv) (fun r =>
    withBytes s.mem r.1.1 0 r.1.2 fun keyBytes =>
      withBytes s.mem r.2.1 0 (min r.2.2 16) fun ivBytes =>
        respond 0 [] ((s.withKey (keyExpansion keyBytes)).withXf
          (Session.create dir s.mode s.padding (ivToBlock ivBytes)))) with ⟨err, h, h'⟩ | ⟨r, h, h'⟩
  · exact .inl ⟨err, h, h'⟩
  · have hc : checkKeyIv s.mem key iv = .ok r := by
      unfold createChecks at h; split at h <;> simp_all
    obtain ⟨-, -, n, v, hn, hv, -, rfl⟩ := (checkKeyIv_eq_ok_iff s.mem key iv r).mp hc
    refine .inr ⟨_, h, h'.trans ?_⟩
    rw [withBytes_of_le hn (by simp), withBytes_of_le hv (by simp)]

/-- What XF_BLOCK can do (rule R232): raise a check's error, or write the session's output to the output buffer. -/
theorem execXfBlock_cases (din : Descriptor) (inOff inCount : Word) (dout : Descriptor) (outOff : Word) (s : State) :
    (∃ err, blockChecks s din inOff inCount dout outOff = .error err ∧
      execXfBlock din inOff inCount dout outOff s = raise err s) ∨
    (∃ r m t, blockChecks s din inOff inCount dout outOff = .ok r ∧
      t = s.xf.transform s.key (blocksOf (r.1.len / 16) (s.mem.bytes r.1.handle r.1.off r.1.len)) ∧
      s.mem.write r.2.1 r.2.2 (bytesOf t.2) = some m ∧
      execXfBlock din inOff inCount dout outOff s =
        respond (BitVec.ofNat 32 (16 * t.2.length)) []
          (((s.withMem m).withXf { t.1 with lc := .transforming }).withAesState Block.zero)) := by
  unfold execXfBlock
  rcases orRaise_cases s (blockChecks s din inOff inCount dout outOff) (fun r =>
    withBytes s.mem r.1.handle r.1.off r.1.len fun data =>
      let t := s.xf.transform s.key (blocksOf (r.1.len / 16) data)
      let out := bytesOf t.2
      match s.mem.write r.2.1 r.2.2 out with
      | none => .fault .outsideBuffer
      | some mem =>
        respond (BitVec.ofNat 32 out.length) []
          (((s.withMem mem).withXf { t.1 with lc := .transforming }).withAesState Block.zero)) with
    ⟨err, h, h'⟩ | ⟨r, h, h'⟩
  · exact .inl ⟨err, h, h'⟩
  · have hc : checkBlockRanges s.mem din inOff inCount dout outOff = .ok r := by
      unfold blockChecks at h; split at h <;> simp_all
    obtain ⟨-, -, nin, nout, hin, hout, h1, h2, h3, h4, h5, -, h6, rfl⟩ := (checkBlockRanges_eq_ok_iff ..).mp hc
    rw [withBytes_of_le hin (by simp only; omega)] at h'
    have hlen := s.xf.transform_length_le s.key
      (blocksOf ((s32 inCount).toNat / 16) (s.mem.bytes din.handle.toNat (s32 inOff).toNat (s32 inCount).toNat))
    rw [blocksOf_length] at hlen
    have hw := (s.mem.write_eq_some_iff dout.handle.toNat (s32 outOff).toNat
      (bytesOf (s.xf.transform s.key (blocksOf ((s32 inCount).toNat / 16)
        (s.mem.bytes din.handle.toNat (s32 inOff).toNat (s32 inCount).toNat))).2) _).mpr
      ⟨nout, hout, by rw [bytesOf_length]; omega, rfl⟩
    refine .inr ⟨_, _, _, h, rfl, hw, h'.trans ?_⟩
    simp only [hw, bytesOf_length]

/-- What XF_FINAL can do (rule R236): raise a check's error, raise a padding error, or return the session's last output. -/
theorem execXfFinal_cases (d : Descriptor) (off cnt : Word) (s : State) :
    (∃ err, finalChecks s d off cnt = .error err ∧ execXfFinal d off cnt s = raise err s) ∨
    (∃ r err, finalChecks s d off cnt = .ok r ∧ s.xf.finish s.key (s.mem.bytes r.handle r.off r.len) = .error err ∧
      execXfFinal d off cnt s = raise err s) ∨
    (∃ r t, finalChecks s d off cnt = .ok r ∧ s.xf.finish s.key (s.mem.bytes r.handle r.off r.len) = .ok t ∧
      execXfFinal d off cnt s = respondBytes t.2 ((s.withXf t.1).withAesState Block.zero)) := by
  rcases orRaise_cases s (finalChecks s d off cnt) (fun r =>
    withBytes s.mem r.handle r.off r.len fun data =>
      orRaise s (s.xf.finish s.key data) fun t =>
        respondBytes t.2 ((s.withXf t.1).withAesState Block.zero)) with ⟨err, h, h'⟩ | ⟨r, h, h'⟩
  · exact .inl ⟨err, h, h'⟩
  · have hc : checkRange s.mem d off cnt = .ok r := by
      unfold finalChecks at h
      split at h
      · simp at h
      · split at h
        · simp at h
        · split at h <;> simp_all
    obtain ⟨n, hn, hle⟩ := checkRange_ok_le hc
    rw [withBytes_of_le hn hle] at h'
    rcases orRaise_cases s (s.xf.finish s.key (s.mem.bytes r.handle r.off r.len)) (fun t =>
      respondBytes t.2 ((s.withXf t.1).withAesState Block.zero)) with ⟨err, g, g'⟩ | ⟨t, g, g'⟩
    · exact .inr (.inl ⟨r, err, h, g, h'.trans g'⟩)
    · exact .inr (.inr ⟨r, t, h, g, h'.trans g'⟩)

end Sys2Proof.Machine
end

