-- ==== Sys2Proof/Laws/Exec.lean ====
section
/-! SUPPORT. What a command can do, said once for all thirty: it raises an error its checks found, or it completes with a
response on a described state. Proofs about every command cite `exec_cases` and do not unfold the meanings. -/

namespace Sys2Proof.Machine

/-- Command `i` in state `s` is answered with error `e`. -/
inductive Raises : Instr → State → Err → Prop
  | rdreg {s n} (h : registerValue s n = none) : Raises (.rdreg n) s .illegal
  | rdhashNumber {s e} (h : hashOf s e = none) : Raises (.rdhash e) s .illegal
  | rdhash {s e hash} (h : hashOf s e = some (false, hash)) : Raises (.rdhash e) s .sequence
  | crc16Setinit {s imm} (h : imm16 imm = none) : Raises (.crc16Setinit imm) s .illegal
  | xcrcSetinit {s imm} (h : imm16 imm = none) : Raises (.xcrcSetinit imm) s .illegal
  | crc16Setxor {s imm} (h : imm16 imm = none) : Raises (.crc16Setxor imm) s .illegal
  | xcrcSetxor {s imm} (h : imm16 imm = none) : Raises (.xcrcSetxor imm) s .illegal
  | crc16Update {s d off cnt e} (h : updateChecks s.crc16.lc s.mem d off cnt = .error e) : Raises (.crc16Update d off cnt) s e
  | crc32Update {s d off cnt e} (h : updateChecks s.crc32.lc s.mem d off cnt = .error e) : Raises (.crc32Update d off cnt) s e
  | xcrcUpdate {s d off cnt e} (h : updateChecks s.xcrc.lc s.mem d off cnt = .error e) : Raises (.xcrcUpdate d off cnt) s e
  | crc16Final {s} (h : s.crc16.lc = .finalized) : Raises .crc16Final s .sequence
  | crc32Final {s} (h : s.crc32.lc = .finalized) : Raises .crc32Final s .sequence
  | xcrcFinal {s} (h : s.xcrc.lc = .finalized) : Raises .xcrcFinal s .sequence
  | md5Update {s d off cnt e} (h : updateChecks s.md5.lc s.mem d off cnt = .error e) : Raises (.md5Update d off cnt) s e
  | md5Final {s} (h : s.md5.lc = .finalized) : Raises .md5Final s .sequence
  | aesKeyexp {s k e} (h : keyexpChecks s k = .error e) : Raises (.aesKeyexp k) s e
  | aesCipher {s d0 d1 d2 d3} (h : s.key.valid = false) : Raises (.aesCipher d0 d1 d2 d3) s .sequence
  | aesInvcipher {s d0 d1 d2 d3} (h : s.key.valid = false) : Raises (.aesInvcipher d0 d1 d2 d3) s .sequence
  | cfgSetmode {s m e} (h : modeOfCode m = .error e) : Raises (.cfgSetmode m) s e
  | cfgSetpad {s p e} (h : paddingOfCode p = .error e) : Raises (.cfgSetpad p) s e
  | xfCreateEnc {s k iv e} (h : createChecks s k iv = .error e) : Raises (.xfCreateEnc k iv) s e
  | xfCreateDec {s k iv e} (h : createChecks s k iv = .error e) : Raises (.xfCreateDec k iv) s e
  | xfBlock {s din off cnt dout outOff e} (h : blockChecks s din off cnt dout outOff = .error e) :
    Raises (.xfBlock din off cnt dout outOff) s e
  | xfFinal {s d off cnt e} (h : finalChecks s d off cnt = .error e) : Raises (.xfFinal d off cnt) s e
  | xfFinalPadding {s d off cnt r e} (h : finalChecks s d off cnt = .ok r)
    (h' : s.xf.finish s.key (s.mem.bytes r.handle r.off r.len) = .error e) : Raises (.xfFinal d off cnt) s e

/-- Command `i` in state `s` completes with RETVAL `v` and the bytes `out`, in the state `u` (the response apart). -/
inductive Completes : Instr → State → Word → List Byte → State → Prop
  | rdreg {s n v} (h : registerValue s n = some v) : Completes (.rdreg n) s v [] s
  | rdhash {s e hash} (h : hashOf s e = some (true, hash)) : Completes (.rdhash e) s (BitVec.ofNat 32 hash.length) hash s
  | crc16Init {s} : Completes .crc16Init s 0 [] (s.withCrc16 s.crc16.init)
  | crc32Init {s} : Completes .crc32Init s 0 [] (s.withCrc32 s.crc32.init)
  | xcrcInit {s} : Completes .xcrcInit s 0 [] (s.withXcrc s.xcrc.init)
  | crc16Setinit {s imm v} (h : imm16 imm = some v) : Completes (.crc16Setinit imm) s 0 [] (s.withCrc16 (s.crc16.setInit v))
  | crc32Setinit {s imm} : Completes (.crc32Setinit imm) s 0 [] (s.withCrc32 (s.crc32.setInit imm))
  | xcrcSetinit {s imm v} (h : imm16 imm = some v) : Completes (.xcrcSetinit imm) s 0 [] (s.withXcrc (s.xcrc.setInit v))
  | crc16Setxor {s imm v} (h : imm16 imm = some v) : Completes (.crc16Setxor imm) s 0 [] (s.withCrc16 (s.crc16.setXor v))
  | crc32Setxor {s imm} : Completes (.crc32Setxor imm) s 0 [] (s.withCrc32 (s.crc32.setXor imm))
  | xcrcSetxor {s imm v} (h : imm16 imm = some v) : Completes (.xcrcSetxor imm) s 0 [] (s.withXcrc (s.xcrc.setXor v))
  | crc16Update {s d off cnt r} (h : updateChecks s.crc16.lc s.mem d off cnt = .ok r) :
    Completes (.crc16Update d off cnt) s 0 []
      (s.withCrc16 (s.crc16.update (step16 tCrc16) (s.mem.bytes r.handle r.off r.len)))
  | crc32Update {s d off cnt r} (h : updateChecks s.crc32.lc s.mem d off cnt = .ok r) :
    Completes (.crc32Update d off cnt) s 0 [] (s.withCrc32 (s.crc32.update step32 (s.mem.bytes r.handle r.off r.len)))
  | xcrcUpdate {s d off cnt r} (h : updateChecks s.xcrc.lc s.mem d off cnt = .ok r) :
    Completes (.xcrcUpdate d off cnt) s 0 [] (s.withXcrc (s.xcrc.update (step16 tXcrc) (s.mem.bytes r.handle r.off r.len)))
  | crc16Final {s} (h : s.crc16.lc ≠ .finalized) :
    Completes .crc16Final s 2 (s.crc16.result emit16) (s.withCrc16 (s.crc16.final emit16))
  | crc32Final {s} (h : s.crc32.lc ≠ .finalized) :
    Completes .crc32Final s 4 (s.crc32.result emit32) (s.withCrc32 (s.crc32.final emit32))
  | xcrcFinal {s} (h : s.xcrc.lc ≠ .finalized) :
    Completes .xcrcFinal s 2 (s.xcrc.result emit16) (s.withXcrc (s.xcrc.final emit16))
  | md5Init {s} : Completes .md5Init s 0 [] (s.withMd5 s.md5.init)
  | md5Update {s d off cnt r} (h : updateChecks s.md5.lc s.mem d off cnt = .ok r) :
    Completes (.md5Update d off cnt) s 0 [] (s.withMd5 (s.md5.update (s.mem.bytes r.handle r.off r.len)))
  | md5Final {s} (h : s.md5.lc ≠ .finalized) : Completes .md5Final s 16 s.md5.digest (s.withMd5 s.md5.final)
  | aesKeyexp {s k r} (h : keyexpChecks s k = .ok r) :
    Completes (.aesKeyexp k) s 0 [] (s.withKey (keyExpansion (s.mem.bytes r.1 0 r.2)))
  | aesCipher {s d0 d1 d2 d3} (h : s.key.valid = true) :
    Completes (.aesCipher d0 d1 d2 d3) s 16 (cipher s.key (Block.ofWords d0 d1 d2 d3)).bytes (s.withAesState Block.zero)
  | aesInvcipher {s d0 d1 d2 d3} (h : s.key.valid = true) :
    Completes (.aesInvcipher d0 d1 d2 d3) s 16 (invCipher s.key (Block.ofWords d0 d1 d2 d3)).bytes
      (s.withAesState Block.zero)
  | cfgSetmode {s m v} (h : modeOfCode m = .ok v) : Completes (.cfgSetmode m) s 0 [] (s.withMode v)
  | cfgSetpad {s p v} (h : paddingOfCode p = .ok v) : Completes (.cfgSetpad p) s 0 [] (s.withPadding v)
  | xfCreateEnc {s k iv r} (h : createChecks s k iv = .ok r) :
    Completes (.xfCreateEnc k iv) s 0 [] ((s.withKey (keyExpansion (s.mem.bytes r.1.1 0 r.1.2))).withXf
      (Session.create .encrypt s.mode s.padding (ivToBlock (s.mem.bytes r.2.1 0 (min r.2.2 16)))))
  | xfCreateDec {s k iv r} (h : createChecks s k iv = .ok r) :
    Completes (.xfCreateDec k iv) s 0 [] ((s.withKey (keyExpansion (s.mem.bytes r.1.1 0 r.1.2))).withXf
      (Session.create .decrypt s.mode s.padding (ivToBlock (s.mem.bytes r.2.1 0 (min r.2.2 16)))))
  | xfBlock {s din off cnt dout outOff r m t} (h : blockChecks s din off cnt dout outOff = .ok r)
    (ht : t = s.xf.transform s.key (blocksOf (r.1.len / 16) (s.mem.bytes r.1.handle r.1.off r.1.len)))
    (hm : s.mem.write r.2.1 r.2.2 (bytesOf t.2) = some m) :
    Completes (.xfBlock din off cnt dout outOff) s (BitVec.ofNat 32 (16 * t.2.length)) []
      (((s.withMem m).withXf { t.1 with lc := .transforming }).withAesState Block.zero)
  | xfFinal {s d off cnt r t} (h : finalChecks s d off cnt = .ok r)
    (ht : s.xf.finish s.key (s.mem.bytes r.handle r.off r.len) = .ok t) :
    Completes (.xfFinal d off cnt) s (BitVec.ofNat 32 t.2.length) t.2 ((s.withXf t.1).withAesState Block.zero)
  | xfDispose {s} : Completes .xfDispose s 0 [] ((s.withKey KeySchedule.cleared).withXf Session.cleared)

@[simp] theorem emit16_length (r : BitVec 16) : (emit16 r).length = 2 := rfl

@[simp] theorem emit32_length (r : Word) : (emit32 r).length = 4 := rfl

theorem Md5Engine.digest_length (e : Md5Engine) : e.digest.length = 16 := rfl

/-- Every command, in every state, raises an error or completes. -/
theorem exec_cases (i : Instr) (s : State) :
    (∃ e, Raises i s e ∧ exec i s = raise e s) ∨ (∃ v out u, Completes i s v out u ∧ exec i s = respond v out u) := by
  cases i with
  | rdreg n =>
    simp only [exec, execRdreg]
    cases h : registerValue s n with
    | none => exact .inl ⟨_, .rdreg h, rfl⟩
    | some v => exact .inr ⟨_, _, _, .rdreg h, rfl⟩
  | rdhash e =>
    simp only [exec, execRdhash]
    rcases h : hashOf s e with _ | ⟨_ | _, hash⟩
    · exact .inl ⟨_, .rdhashNumber h, rfl⟩
    · exact .inl ⟨_, .rdhash h, rfl⟩
    · exact .inr ⟨_, _, _, .rdhash h, rfl⟩
  | crc16Init => exact .inr ⟨_, _, _, .crc16Init, rfl⟩
  | crc32Init => exact .inr ⟨_, _, _, .crc32Init, rfl⟩
  | xcrcInit => exact .inr ⟨_, _, _, .xcrcInit, rfl⟩
  | crc16Setinit imm =>
    simp only [exec, execCrc16Setinit, withImm16]
    cases h : imm16 imm with
    | none => exact .inl ⟨_, .crc16Setinit h, rfl⟩
    | some v => exact .inr ⟨_, _, _, .crc16Setinit h, rfl⟩
  | crc32Setinit imm => exact .inr ⟨_, _, _, .crc32Setinit, rfl⟩
  | xcrcSetinit imm =>
    simp only [exec, execXcrcSetinit, withImm16]
    cases h : imm16 imm with
    | none => exact .inl ⟨_, .xcrcSetinit h, rfl⟩
    | some v => exact .inr ⟨_, _, _, .xcrcSetinit h, rfl⟩
  | crc16Setxor imm =>
    simp only [exec, execCrc16Setxor, withImm16]
    cases h : imm16 imm with
    | none => exact .inl ⟨_, .crc16Setxor h, rfl⟩
    | some v => exact .inr ⟨_, _, _, .crc16Setxor h, rfl⟩
  | crc32Setxor imm => exact .inr ⟨_, _, _, .crc32Setxor, rfl⟩
  | xcrcSetxor imm =>
    simp only [exec, execXcrcSetxor, withImm16]
    cases h : imm16 imm with
    | none => exact .inl ⟨_, .xcrcSetxor h, rfl⟩
    | some v => exact .inr ⟨_, _, _, .xcrcSetxor h, rfl⟩
  | crc16Update d off cnt =>
    rcases crcUpdate_cases (step16 tCrc16) s.crc16 s.withCrc16 d off cnt s with ⟨e, h, h'⟩ | ⟨r, h, h'⟩
    · exact .inl ⟨e, .crc16Update h, h'⟩
    · exact .inr ⟨_, _, _, .crc16Update h, h'⟩
  | crc32Update d off cnt =>
    rcases crcUpdate_cases step32 s.crc32 s.withCrc32 d off cnt s with ⟨e, h, h'⟩ | ⟨r, h, h'⟩
    · exact .inl ⟨e, .crc32Update h, h'⟩
    · exact .inr ⟨_, _, _, .crc32Update h, h'⟩
  | xcrcUpdate d off cnt =>
    rcases crcUpdate_cases (step16 tXcrc) s.xcrc s.withXcrc d off cnt s with ⟨e, h, h'⟩ | ⟨r, h, h'⟩
    · exact .inl ⟨e, .xcrcUpdate h, h'⟩
    · exact .inr ⟨_, _, _, .xcrcUpdate h, h'⟩
  | crc16Final =>
    simp only [exec, execCrc16Final, crcFinal]
    split
    · exact .inl ⟨_, .crc16Final ‹_›, rfl⟩
    · exact .inr ⟨_, _, _, .crc16Final ‹_›, rfl⟩
  | crc32Final =>
    simp only [exec, execCrc32Final, crcFinal]
    split
    · exact .inl ⟨_, .crc32Final ‹_›, rfl⟩
    · exact .inr ⟨_, _, _, .crc32Final ‹_›, rfl⟩
  | xcrcFinal =>
    simp only [exec, execXcrcFinal, crcFinal]
    split
    · exact .inl ⟨_, .xcrcFinal ‹_›, rfl⟩
    · exact .inr ⟨_, _, _, .xcrcFinal ‹_›, rfl⟩
  | md5Init => exact .inr ⟨_, _, _, .md5Init, rfl⟩
  | md5Update d off cnt =>
    rcases execMd5Update_cases d off cnt s with ⟨e, h, h'⟩ | ⟨r, h, h'⟩
    · exact .inl ⟨e, .md5Update h, h'⟩
    · exact .inr ⟨_, _, _, .md5Update h, h'⟩
  | md5Final =>
    simp only [exec, execMd5Final]
    split
    · exact .inl ⟨_, .md5Final ‹_›, rfl⟩
    · refine .inr ⟨_, _, _, .md5Final ‹_›, ?_⟩
      rw [respondBytes, Md5Engine.digest_length]; rfl
  | aesKeyexp k =>
    rcases execAesKeyexp_cases k s with ⟨e, h, h'⟩ | ⟨r, h, h'⟩
    · exact .inl ⟨e, .aesKeyexp h, h'⟩
    · exact .inr ⟨_, _, _, .aesKeyexp h, h'⟩
  | aesCipher d0 d1 d2 d3 =>
    simp only [exec, execAesCipher, blockCommand]
    split <;> rename_i hk
    · exact .inr ⟨_, _, _, .aesCipher ‹_›, by rw [respondBytes, Block.bytes_length]; rfl⟩
    · exact .inl ⟨_, .aesCipher (by simpa using hk), rfl⟩
  | aesInvcipher d0 d1 d2 d3 =>
    simp only [exec, execAesInvcipher, blockCommand]
    split <;> rename_i hk
    · exact .inr ⟨_, _, _, .aesInvcipher ‹_›, by rw [respondBytes, Block.bytes_length]; rfl⟩
    · exact .inl ⟨_, .aesInvcipher (by simpa using hk), rfl⟩
  | cfgSetmode m =>
    simp only [exec, execCfgSetmode]
    cases h : modeOfCode m with
    | error e => exact .inl ⟨e, .cfgSetmode h, rfl⟩
    | ok v => exact .inr ⟨_, _, _, .cfgSetmode h, rfl⟩
  | cfgSetpad p =>
    simp only [exec, execCfgSetpad]
    cases h : paddingOfCode p with
    | error e => exact .inl ⟨e, .cfgSetpad h, rfl⟩
    | ok v => exact .inr ⟨_, _, _, .cfgSetpad h, rfl⟩
  | xfCreateEnc k iv =>
    rcases xfCreate_cases .encrypt k iv s with ⟨e, h, h'⟩ | ⟨r, h, h'⟩
    · exact .inl ⟨e, .xfCreateEnc h, h'⟩
    · exact .inr ⟨_, _, _, .xfCreateEnc h, h'⟩
  | xfCreateDec k iv =>
    rcases xfCreate_cases .decrypt k iv s with ⟨e, h, h'⟩ | ⟨r, h, h'⟩
    · exact .inl ⟨e, .xfCreateDec h, h'⟩
    · exact .inr ⟨_, _, _, .xfCreateDec h, h'⟩
  | xfBlock din off cnt dout outOff =>
    rcases execXfBlock_cases din off cnt dout outOff s with ⟨e, h, h'⟩ | ⟨r, m, t, h, ht, hm, h'⟩
    · exact .inl ⟨e, .xfBlock h, h'⟩
    · exact .inr ⟨_, _, _, .xfBlock h ht hm, h'⟩
  | xfFinal d off cnt =>
    rcases execXfFinal_cases d off cnt s with ⟨e, h, h'⟩ | ⟨r, e, h, ht, h'⟩ | ⟨r, t, h, ht, h'⟩
    · exact .inl ⟨e, .xfFinal h, h'⟩
    · exact .inl ⟨e, .xfFinalPadding h ht, h'⟩
    · exact .inr ⟨_, _, _, .xfFinal h ht, h'⟩
  | xfDispose => exact .inr ⟨_, _, _, .xfDispose, rfl⟩

/-- The next state of a command: its error recorded, or its completed state with the response. -/
theorem exec_next {i : Instr} {s t : State} (h : exec i s = .next t) :
    (∃ e, Raises i s e ∧ t = s.withResponse (some (.error e))) ∨
    (∃ v out u, Completes i s v out u ∧ t = u.withResponse (some (.ok v out))) := by
  rcases exec_cases i s with ⟨e, he, hx⟩ | ⟨v, out, u, hu, hx⟩
  · exact .inl ⟨e, he, (raise_eq_next e s t).mp (hx ▸ h)⟩
  · exact .inr ⟨v, out, u, hu, (respond_eq_next v out u t).mp (hx ▸ h)⟩

end Sys2Proof.Machine
end

