-- ==== Sys2Proof/Laws/Tables.lean ====
section
/-! SUPPORT. The listings of Machine/Tables.lean against the spec's generating formulas and examples. -/

namespace Sys2Proof.Machine

/-- A statement about every byte, checked on the 256 numbers. -/
theorem forall_byte {P : Byte → Prop} (h : ∀ n : Fin 256, P (BitVec.ofFin n)) (b : Byte) : P b := by
  have := h b.toFin
  simpa using this

theorem tCrc16_length : tCrc16Rows.map List.length = List.replicate 16 16 := by decide +kernel

theorem tXcrc_length : tXcrcRows.map List.length = List.replicate 16 16 := by decide +kernel

theorem tCrc32_length : tCrc32Rows.map List.length = List.replicate 32 8 := by decide +kernel

theorem tMd5_length : tMd5Rows.map List.length = List.replicate 16 4 := by decide +kernel

/-- `ISBOX[SBOX[v]] = v` (`43_aes_core.md` rule R183). -/
@[simp] theorem isbox_sbox (v : Byte) : isbox (sbox v) = v :=
  forall_byte (P := fun v => isbox (sbox v) = v) (by decide +kernel) v

/-- `SBOX[ISBOX[v]] = v` (rule R183). -/
@[simp] theorem sbox_isbox (v : Byte) : sbox (isbox v) = v :=
  forall_byte (P := fun v => sbox (isbox v) = v) (by decide +kernel) v

/-- Doubling is linear (rule R185). -/
theorem gf02_xor (a b : Byte) : gf02 (a ^^^ b) = gf02 a ^^^ gf02 b := by
  have key : ∀ x : Byte, gf02 x = (x <<< 1) ^^^ (if x.getLsbD 7 then 0x1b else 0) := by
    intro x; unfold gf02; split <;> simp
  rw [key, key a, key b, BitVec.shiftLeft_xor_distrib, BitVec.getLsbD_xor]
  cases a.getLsbD 7 <;> cases b.getLsbD 7 <;> simp <;> ext i <;> simp <;> grind

end Sys2Proof.Machine
end

