-- ==== Sys2Proof/Laws/Keys.lean ====
section
/-! SUPPORT. The key schedule's rows and lengths (`43_aes_core.md` rules R191 to R193) and the linearity of the GF(2^8)
multipliers (rules R185, R186). -/

namespace Sys2Proof.Machine

/-! ### Rows -/

theorem rowAt_replicate (n i : Nat) : rowAt (List.replicate n Quad.zero) i = Quad.zero := by
  unfold rowAt
  simp only [List.getD_eq_getElem?_getD, List.getElem?_replicate]
  split <;> rfl

theorem keyRows_length : ∀ l : List Byte, (keyRows l).length = l.length / 4
  | [] => rfl
  | [_] => by simp [keyRows]
  | [_, _] => by simp [keyRows]
  | [_, _, _] => by simp [keyRows]
  | _ :: _ :: _ :: _ :: t => by simp [keyRows, keyRows_length t]; omega

theorem expandRows_length (nk n row : Nat) (done : List Quad) : (expandRows nk n row done).length = n + done.length := by
  induction n generalizing row done with
  | zero => simp [expandRows]
  | succ n ih => simp [expandRows, ih]; omega

/-- A key of nk words expands to 4*(nk+7) rows, and `W` has 60. -/
theorem expandedKey_length (nk : Nat) (key : List Byte) (h : key.length = 4 * nk) (hn : nk ≤ 8) :
    (expandedKey nk key).length = 60 := by
  have hk : (keyRows key).length = nk := by rw [keyRows_length]; omega
  simp only [expandedKey, List.length_append, List.length_reverse, expandRows_length, List.length_replicate, hk]
  omega

/-! ### Multipliers are linear -/

theorem xor_pairs (a b a' b' : Byte) : (a ^^^ a') ^^^ (b ^^^ b') = (a ^^^ b) ^^^ (a' ^^^ b') := by
  simp only [BitVec.xor_assoc]
  congr 1
  rw [← BitVec.xor_assoc, BitVec.xor_comm a' b, BitVec.xor_assoc]

theorem gf03_xor (a b : Byte) : gf03 (a ^^^ b) = gf03 a ^^^ gf03 b := by simp only [gf03, gf02_xor, xor_pairs]

theorem gf09_xor (a b : Byte) : gf09 (a ^^^ b) = gf09 a ^^^ gf09 b := by simp only [gf09, gf02_xor, xor_pairs]

theorem gf0b_xor (a b : Byte) : gf0b (a ^^^ b) = gf0b a ^^^ gf0b b := by simp only [gf0b, gf02_xor, xor_pairs]

theorem gf0d_xor (a b : Byte) : gf0d (a ^^^ b) = gf0d a ^^^ gf0d b := by simp only [gf0d, gf02_xor, xor_pairs]

theorem gf0e_xor (a b : Byte) : gf0e (a ^^^ b) = gf0e a ^^^ gf0e b := by simp only [gf0e, gf02_xor, xor_pairs]

end Sys2Proof.Machine
end

