-- ==== Sys2Proof/Laws/PerInstr.lean ====
section
/-! SUPPORT. Facts about every command as syntax, one lemma per constructor. -/

namespace Sys2Proof.Laws

/-- The encoding of a command has the number of words of its format (`30_encoding.md` rule R93), and its command word
has the reserved bits 0 (rule R81). -/
def TransactionLength.Statement (i : Instr) : Prop :=
  (encode i).length = i.format.words ∧ ∀ cw, (encode i).head? = some cw → cwRsv cw = 0

theorem TransactionLength.rdreg (n : BitVec 16) : TransactionLength.Statement (.rdreg n) := by
  simp [TransactionLength.Statement, encode, Instr.format, Format.words]

theorem TransactionLength.rdhash (e : BitVec 4) : TransactionLength.Statement (.rdhash e) := by
  simp [TransactionLength.Statement, encode, Instr.format, Format.words]

theorem TransactionLength.crc16Init : TransactionLength.Statement .crc16Init := by
  simp [TransactionLength.Statement, encode, Instr.format, Format.words]

theorem TransactionLength.crc32Init : TransactionLength.Statement .crc32Init := by
  simp [TransactionLength.Statement, encode, Instr.format, Format.words]

theorem TransactionLength.xcrcInit : TransactionLength.Statement .xcrcInit := by
  simp [TransactionLength.Statement, encode, Instr.format, Format.words]

theorem TransactionLength.crc16Setinit (imm : Word) : TransactionLength.Statement (.crc16Setinit imm) := by
  simp [TransactionLength.Statement, encode, Instr.format, Format.words]

theorem TransactionLength.crc32Setinit (imm : Word) : TransactionLength.Statement (.crc32Setinit imm) := by
  simp [TransactionLength.Statement, encode, Instr.format, Format.words]

theorem TransactionLength.xcrcSetinit (imm : Word) : TransactionLength.Statement (.xcrcSetinit imm) := by
  simp [TransactionLength.Statement, encode, Instr.format, Format.words]

theorem TransactionLength.crc16Setxor (imm : Word) : TransactionLength.Statement (.crc16Setxor imm) := by
  simp [TransactionLength.Statement, encode, Instr.format, Format.words]

theorem TransactionLength.crc32Setxor (imm : Word) : TransactionLength.Statement (.crc32Setxor imm) := by
  simp [TransactionLength.Statement, encode, Instr.format, Format.words]

theorem TransactionLength.xcrcSetxor (imm : Word) : TransactionLength.Statement (.xcrcSetxor imm) := by
  simp [TransactionLength.Statement, encode, Instr.format, Format.words]

theorem TransactionLength.crc16Update (buf : Descriptor) (offset count : Word) : TransactionLength.Statement (.crc16Update buf offset count) := by
  simp [TransactionLength.Statement, encode, Instr.format, Format.words]

theorem TransactionLength.crc32Update (buf : Descriptor) (offset count : Word) : TransactionLength.Statement (.crc32Update buf offset count) := by
  simp [TransactionLength.Statement, encode, Instr.format, Format.words]

theorem TransactionLength.xcrcUpdate (buf : Descriptor) (offset count : Word) : TransactionLength.Statement (.xcrcUpdate buf offset count) := by
  simp [TransactionLength.Statement, encode, Instr.format, Format.words]

theorem TransactionLength.crc16Final : TransactionLength.Statement .crc16Final := by
  simp [TransactionLength.Statement, encode, Instr.format, Format.words]

theorem TransactionLength.crc32Final : TransactionLength.Statement .crc32Final := by
  simp [TransactionLength.Statement, encode, Instr.format, Format.words]

theorem TransactionLength.xcrcFinal : TransactionLength.Statement .xcrcFinal := by
  simp [TransactionLength.Statement, encode, Instr.format, Format.words]

theorem TransactionLength.md5Init : TransactionLength.Statement .md5Init := by
  simp [TransactionLength.Statement, encode, Instr.format, Format.words]

theorem TransactionLength.md5Update (buf : Descriptor) (offset count : Word) : TransactionLength.Statement (.md5Update buf offset count) := by
  simp [TransactionLength.Statement, encode, Instr.format, Format.words]

theorem TransactionLength.md5Final : TransactionLength.Statement .md5Final := by
  simp [TransactionLength.Statement, encode, Instr.format, Format.words]

theorem TransactionLength.aesKeyexp (key : Descriptor) : TransactionLength.Statement (.aesKeyexp key) := by
  simp [TransactionLength.Statement, encode, Instr.format, Format.words]

theorem TransactionLength.aesCipher (d0 d1 d2 d3 : Word) : TransactionLength.Statement (.aesCipher d0 d1 d2 d3) := by
  simp [TransactionLength.Statement, encode, Instr.format, Format.words]

theorem TransactionLength.aesInvcipher (d0 d1 d2 d3 : Word) : TransactionLength.Statement (.aesInvcipher d0 d1 d2 d3) := by
  simp [TransactionLength.Statement, encode, Instr.format, Format.words]

theorem TransactionLength.cfgSetmode (m : BitVec 16) : TransactionLength.Statement (.cfgSetmode m) := by
  simp [TransactionLength.Statement, encode, Instr.format, Format.words]

theorem TransactionLength.cfgSetpad (p : BitVec 16) : TransactionLength.Statement (.cfgSetpad p) := by
  simp [TransactionLength.Statement, encode, Instr.format, Format.words]

theorem TransactionLength.xfCreateEnc (key iv : Descriptor) : TransactionLength.Statement (.xfCreateEnc key iv) := by
  simp [TransactionLength.Statement, encode, Instr.format, Format.words]

theorem TransactionLength.xfCreateDec (key iv : Descriptor) : TransactionLength.Statement (.xfCreateDec key iv) := by
  simp [TransactionLength.Statement, encode, Instr.format, Format.words]

theorem TransactionLength.xfBlock (inBuf : Descriptor) (inOff inCount : Word) (outBuf : Descriptor) (outOff : Word) : TransactionLength.Statement (.xfBlock inBuf inOff inCount outBuf outOff) := by
  simp [TransactionLength.Statement, encode, Instr.format, Format.words]

theorem TransactionLength.xfFinal (buf : Descriptor) (offset count : Word) : TransactionLength.Statement (.xfFinal buf offset count) := by
  simp [TransactionLength.Statement, encode, Instr.format, Format.words]

theorem TransactionLength.xfDispose : TransactionLength.Statement .xfDispose := by
  simp [TransactionLength.Statement, encode, Instr.format, Format.words]

end Sys2Proof.Laws
end

