-- ==== Sys2Proof/Machine/HostProgram.lean ====
section
/-! DEFINITION. What the host writes and issues: the assembler text of a command (`30_encoding.md` rule R94) and the
pseudo-commands, sequences with no encoding of their own (rule R95). The block's step does not use this file. -/

namespace Sys2Proof.Machine

/-! ### Assembler text (rule R94) -/

/-- Hexadecimal digit of a value below 16, small letters. -/
def hexDigit (n : Nat) : Char := ("0123456789abcdef".toList).getD n '0'

/-- A byte as two hexadecimal digits. -/
def hexByte (b : Byte) : String := String.ofList [hexDigit (b.toNat / 16), hexDigit (b.toNat % 16)]

/-- A descriptor: `@h`, or `null`. -/
def textDescriptor (d : Descriptor) : String := if d.valid then "@" ++ toString d.handle.toNat else "null"

/-- An offset or count: decimal, negative with a minus sign. -/
def textInt (x : Word) : String := toString x.toInt

/-- An immediate or a number: decimal. -/
def textNat (n : Nat) : String := toString n

/-- An inline block: 32 digits, first byte first. -/
def textBlock (x : Block) : String := String.join (x.bytes.map hexByte)

/-- Mnemonic and operands, the operands in word order. -/
def textLine (mnemonic : String) (operands : List String) : String :=
  if operands = [] then mnemonic else mnemonic ++ " " ++ ", ".intercalate operands

def textB (mnemonic : String) (d : Descriptor) (off cnt : Word) : String :=
  textLine mnemonic [textDescriptor d, textInt off, textInt cnt]

/-- The line of a command. -/
def textOf : Instr → String
  | .rdreg n => textLine "RDREG" [textNat n.toNat]
  | .rdhash e => textLine "RDHASH" [textNat e.toNat]
  | .crc16Init => "CRC16_INIT"
  | .crc32Init => "CRC32_INIT"
  | .xcrcInit => "XCRC_INIT"
  | .crc16Setinit imm => textLine "CRC16_SETINIT" [textNat imm.toNat]
  | .crc32Setinit imm => textLine "CRC32_SETINIT" [textNat imm.toNat]
  | .xcrcSetinit imm => textLine "XCRC_SETINIT" [textNat imm.toNat]
  | .crc16Setxor imm => textLine "CRC16_SETXOR" [textNat imm.toNat]
  | .crc32Setxor imm => textLine "CRC32_SETXOR" [textNat imm.toNat]
  | .xcrcSetxor imm => textLine "XCRC_SETXOR" [textNat imm.toNat]
  | .crc16Update d off cnt => textB "CRC16_UPDATE" d off cnt
  | .crc32Update d off cnt => textB "CRC32_UPDATE" d off cnt
  | .xcrcUpdate d off cnt => textB "XCRC_UPDATE" d off cnt
  | .crc16Final => "CRC16_FINAL"
  | .crc32Final => "CRC32_FINAL"
  | .xcrcFinal => "XCRC_FINAL"
  | .md5Init => "MD5_INIT"
  | .md5Update d off cnt => textB "MD5_UPDATE" d off cnt
  | .md5Final => "MD5_FINAL"
  | .aesKeyexp k => textLine "AES_KEYEXP" [textDescriptor k]
  | .aesCipher d0 d1 d2 d3 => textLine "AES_CIPHER" [textBlock (Block.ofWords d0 d1 d2 d3)]
  | .aesInvcipher d0 d1 d2 d3 => textLine "AES_INVCIPHER" [textBlock (Block.ofWords d0 d1 d2 d3)]
  | .cfgSetmode m => textLine "CFG_SETMODE" [textNat m.toNat]
  | .cfgSetpad p => textLine "CFG_SETPAD" [textNat p.toNat]
  | .xfCreateEnc k iv => textLine "XF_CREATE_ENC" [textDescriptor k, textDescriptor iv]
  | .xfCreateDec k iv => textLine "XF_CREATE_DEC" [textDescriptor k, textDescriptor iv]
  | .xfBlock din off cnt dout outOff =>
    textLine "XF_BLOCK" [textDescriptor din, textInt off, textInt cnt, textDescriptor dout, textInt outOff]
  | .xfFinal d off cnt => textB "XF_FINAL" d off cnt
  | .xfDispose => "XF_DISPOSE"

/-! ### Pseudo-commands (rule R95) -/

/-- Is the last response an error? -/
def State.failed (s : State) : Bool :=
  match s.response with
  | some (.error _) => true
  | some (.ok _ _) => false
  | none => false

/-- A command, then `k` unless it was answered with an error: "the expansion stops there and that response is the
result". -/
def andThen (i : Instr) (k : State → Result) (s : State) : Result :=
  match exec i s with
  | .next t => if t.failed then .next t else k t
  | .fault f => .fault f
  | .refused r => .refused r

/-- A three-command expansion whose result is the second command's response. -/
def expansion (first second third : Instr) (s : State) : Result :=
  andThen first (andThen second fun t => andThen third (fun u => .next (u.withResponse t.response)) t) s

/-- `CRC16_COMPUTE @h, off, cnt`. -/
def crc16Compute (d : Descriptor) (off cnt : Word) (s : State) : Result :=
  expansion (.crc16Update d off cnt) .crc16Final .crc16Init s

/-- `CRC32_COMPUTE @h, off, cnt`. -/
def crc32Compute (d : Descriptor) (off cnt : Word) (s : State) : Result :=
  expansion (.crc32Update d off cnt) .crc32Final .crc32Init s

/-- `XCRC_COMPUTE @h, off, cnt`. -/
def xcrcCompute (d : Descriptor) (off cnt : Word) (s : State) : Result :=
  expansion (.xcrcUpdate d off cnt) .xcrcFinal .xcrcInit s

/-- `MD5_COMPUTE @h, off, cnt`. -/
def md5Compute (d : Descriptor) (off cnt : Word) (s : State) : Result :=
  expansion (.md5Update d off cnt) .md5Final .md5Init s

/-- `BufLen(h)` as a count operand; a descriptor that names no buffer has none, and the command refuses it. -/
def wholeCount (s : State) (d : Descriptor) : Word := BitVec.ofNat 32 ((s.mem.bufLen d.handle.toNat).getD 0)

/-- The one-operand COMPUTE forms: off = 0, cnt = BufLen(h). -/
def wholeBuffer (compute : Descriptor → Word → Word → State → Result) (d : Descriptor) (s : State) : Result :=
  compute d 0 (wholeCount s d) s

/-- `XCRC_HASHDATA @h`. -/
def xcrcHashData (d : Descriptor) (s : State) : Result := wholeBuffer xcrcCompute d s

/-- `ENCRYPT @key, @iv, @h`. -/
def encrypt (key iv d : Descriptor) (s : State) : Result :=
  expansion (.xfCreateEnc key iv) (.xfFinal d 0 (wholeCount s d)) .xfDispose s

/-- `DECRYPT @key, @iv, @h`. -/
def decrypt (key iv d : Descriptor) (s : State) : Result :=
  expansion (.xfCreateDec key iv) (.xfFinal d 0 (wholeCount s d)) .xfDispose s

end Sys2Proof.Machine
end

