-- ==== Sys2Proof/Tests/Slice0.lean ====
section
/-! SUPPORT. The model's own tests: ill-formed terms refused, every command decoded from a word written out from
`30_encoding.md` rules R81 and R90, one step of each command against the values of `95_test_vectors.md`, and for every
statement with hypotheses a concrete state and operands that meet them. -/

namespace Sys2Proof.Tests

set_option Elab.async false

open Sys2Proof.Machine Sys2Proof.Spec

/-! ## Ill-formed terms (rule R91): the check refuses each, and a neighbour inside the range passes -/

theorem test_wellFormed_rdreg : (Instr.rdreg 0x05).wellFormed = false ∧ (Instr.rdreg 0x1C).wellFormed = false ∧
    (Instr.rdreg 0x22).wellFormed = false ∧ (Instr.rdreg 0x1B).wellFormed = true := by decide

theorem test_wellFormed_rdhash : (Instr.rdhash 4).wellFormed = false ∧ (Instr.rdhash 3).wellFormed = true := by decide

theorem test_wellFormed_crc16Setinit : (Instr.crc16Setinit 0x10000).wellFormed = false ∧
    (Instr.crc16Setinit 0xFFFF).wellFormed = true := by decide

theorem test_wellFormed_xcrcSetinit : (Instr.xcrcSetinit 0x10000).wellFormed = false ∧
    (Instr.xcrcSetinit 0xFFFF).wellFormed = true := by decide

theorem test_wellFormed_crc16Setxor : (Instr.crc16Setxor 0x80000000).wellFormed = false ∧
    (Instr.crc16Setxor 0xFFFF).wellFormed = true := by decide

theorem test_wellFormed_xcrcSetxor : (Instr.xcrcSetxor 0x80000000).wellFormed = false ∧
    (Instr.xcrcSetxor 0xFFFF).wellFormed = true := by decide

theorem test_wellFormed_cfgSetmode : (Instr.cfgSetmode 0).wellFormed = false ∧ (Instr.cfgSetmode 6).wellFormed = false ∧
    (Instr.cfgSetmode 5).wellFormed = true := by decide

theorem test_wellFormed_cfgSetpad : (Instr.cfgSetpad 0).wellFormed = false ∧ (Instr.cfgSetpad 6).wellFormed = false ∧
    (Instr.cfgSetpad 5).wellFormed = true := by decide

/-! ## Decoding: UNIT_OP_SEL_RSV_IMM16 written out in bits (rules R81, R90) -/

theorem test_decode_rdreg : decode [0b0000_0000_0000_0000_0000000000110000] = .command (.rdreg 0x30) [] := by decide
theorem test_decode_rdhash : decode [0b0000_0001_0011_0000_0000000000000000] = .command (.rdhash 3) [] := by decide
theorem test_decode_crc16Init : decode [0b0001_0000_0000_0000_0000000000000000] = .command .crc16Init [] := by decide
theorem test_decode_crc32Init : decode [0b0001_0000_0001_0000_0000000000000000] = .command .crc32Init [] := by decide
theorem test_decode_xcrcInit : decode [0b0001_0000_0010_0000_0000000000000000] = .command .xcrcInit [] := by decide
theorem test_decode_crc16Setinit : decode [0b0001_0001_0000_0000_0000000000000000, 0xFFFF] =
    .command (.crc16Setinit 0xFFFF) [] := by decide
theorem test_decode_crc32Setinit : decode [0b0001_0001_0001_0000_0000000000000000, 0x12345678] =
    .command (.crc32Setinit 0x12345678) [] := by decide
theorem test_decode_xcrcSetinit : decode [0b0001_0001_0010_0000_0000000000000000, 0xA695] =
    .command (.xcrcSetinit 0xA695) [] := by decide
theorem test_decode_crc16Setxor : decode [0b0001_0010_0000_0000_0000000000000000, 1] =
    .command (.crc16Setxor 1) [] := by decide
theorem test_decode_crc32Setxor : decode [0b0001_0010_0001_0000_0000000000000000, 0x80000001] =
    .command (.crc32Setxor 0x80000001) [] := by decide
theorem test_decode_xcrcSetxor : decode [0b0001_0010_0010_0000_0000000000000000, 0xFFFF] =
    .command (.xcrcSetxor 0xFFFF) [] := by decide
theorem test_decode_crc16Update : decode [0b0001_0011_0000_0000_0000000000000000, 0x80000001, 2, 3] =
    .command (.crc16Update ⟨true, 1⟩ 2 3) [] := by decide
theorem test_decode_crc32Update : decode [0b0001_0011_0001_0000_0000000000000000, 0x00000005, 2, 3] =
    .command (.crc32Update ⟨false, 5⟩ 2 3) [] := by decide
theorem test_decode_xcrcUpdate : decode [0b0001_0011_0010_0000_0000000000000000, 0xFFFFFFFF, 2, 3] =
    .command (.xcrcUpdate ⟨true, 0x7FFFFFFF⟩ 2 3) [] := by decide
theorem test_decode_crc16Final : decode [0b0001_0100_0000_0000_0000000000000000] = .command .crc16Final [] := by decide
theorem test_decode_crc32Final : decode [0b0001_0100_0001_0000_0000000000000000] = .command .crc32Final [] := by decide
theorem test_decode_xcrcFinal : decode [0b0001_0100_0010_0000_0000000000000000] = .command .xcrcFinal [] := by decide
theorem test_decode_md5Init : decode [0b0010_0000_0000_0000_0000000000000000] = .command .md5Init [] := by decide
theorem test_decode_md5Update : decode [0b0010_0011_0000_0000_0000000000000000, 0x80000009, 30, 40] =
    .command (.md5Update ⟨true, 9⟩ 30 40) [] := by decide
theorem test_decode_md5Final : decode [0b0010_0100_0000_0000_0000000000000000] = .command .md5Final [] := by decide
theorem test_decode_aesKeyexp : decode [0b0011_0000_0000_0000_0000000000000000, 0x80000008] =
    .command (.aesKeyexp ⟨true, 8⟩) [] := by decide
theorem test_decode_aesCipher : decode [0b0011_0001_0000_0000_0000000000000000, 1, 2, 3, 4] =
    .command (.aesCipher 1 2 3 4) [] := by decide
theorem test_decode_aesInvcipher : decode [0b0011_0010_0000_0000_0000000000000000, 1, 2, 3, 4] =
    .command (.aesInvcipher 1 2 3 4) [] := by decide
theorem test_decode_cfgSetmode : decode [0b0100_0000_0000_0000_0000000000000010] = .command (.cfgSetmode 2) [] := by decide
theorem test_decode_cfgSetpad : decode [0b0100_0001_0000_0000_0000000000000011] = .command (.cfgSetpad 3) [] := by decide
theorem test_decode_xfCreateEnc : decode [0b0100_0010_0000_0000_0000000000000000, 0x80000002, 0x80000003] =
    .command (.xfCreateEnc ⟨true, 2⟩ ⟨true, 3⟩) [] := by decide
theorem test_decode_xfCreateDec : decode [0b0100_0011_0000_0000_0000000000000000, 0x80000002, 0x00000003] =
    .command (.xfCreateDec ⟨true, 2⟩ ⟨false, 3⟩) [] := by decide
theorem test_decode_xfBlock : decode [0b0100_0100_0000_0000_0000000000000000, 0x80000004, 1, 16, 0x80000005, 7] =
    .command (.xfBlock ⟨true, 4⟩ 1 16 ⟨true, 5⟩ 7) [] := by decide
theorem test_decode_xfFinal : decode [0b0100_0101_0000_0000_0000000000000000, 0x80000004, 32, 8] =
    .command (.xfFinal ⟨true, 4⟩ 32 8) [] := by decide
theorem test_decode_xfDispose : decode [0b0100_0110_0000_0000_0000000000000000] = .command .xfDispose [] := by decide

/-- The illegal command words of `95_test_vectors.md` section 2.6, each with its reason; the word after it stays. -/
theorem test_decode_illegal :
    decode [0x50000000, 9] = .illegal .unassignedUnit [9] ∧ decode [0xF0000000] = .illegal .unassignedUnit [] ∧
    decode [0x15000000] = .illegal .unassignedOp [] ∧ decode [0x21000000] = .illegal .unassignedOp [] ∧
    decode [0x33000000] = .illegal .unassignedOp [] ∧ decode [0x47000000] = .illegal .unassignedOp [] ∧
    decode [0x02000000] = .illegal .unassignedOp [] ∧ decode [0x10300000] = .illegal .badSelect [] ∧
    decode [0x20100000] = .illegal .badSelect [] ∧ decode [0x20010000] = .illegal .reservedNonzero [] ∧
    decode [0x20000001] = .illegal .immNonzero [] := by decide

/-! ## The table's numbering and the two host definitions -/

/-- XF_BLOCK with operand words 1 to 5: word k has the bits 32k to 32k+31. -/
theorem test_decodeTableWord : decodeTableWord 192 (0x44000000 + 0x80000001 * 2 ^ 32 + 2 * 2 ^ 64 + 3 * 2 ^ 96 +
    0x80000004 * 2 ^ 128 + 5 * 2 ^ 160) = some (.xfBlock ⟨true, 1⟩ 2 3 ⟨true, 4⟩ 5) ∧
    decodeTableWord 32 0x50000000 = none := by decide

/-- A command word whose operand words have no bits in the table: they are zeros. -/
theorem test_decodeTableWord_short : decodeTableWord 32 0x31000000 = some (.aesCipher 0 0 0 0) := by decide

/-! ## One step of each command -/

/-- A state with the given buffers (handle, contents). -/
def withBuffers (s : State) (l : List (Nat × List Byte)) : State :=
  { s with mem := l.foldl (fun m b => m.put b.1 b.2) s.mem }

/-- The bytes a, a+1, … -/
def count (a n : Nat) : List Byte := (List.range n).map fun i => BitVec.ofNat 8 (a + i)

/-- A byte sequence written as one number, first byte highest. -/
def bytes (n x : Nat) : List Byte := (List.range n).map fun i => BitVec.ofNat 8 (x / 256 ^ (n - 1 - i))

/-- The host buffers of `95_test_vectors.md` part 3, and a key of illegal length 15 (buffer 10). -/
def host : State :=
  withBuffers State.reset
    [(1, [0x61, 0x62, 0x63]), (2, count 0 16), (3, count 0x10 16), (4, count 0x30 40), (5, zeros 48), (6, zeros 48), (8, count 0 32),
      (10, count 0 15)]

/-- One step with the words on the link. -/
def issue (s : State) (ws : List Word) : Result := step { s with link := ws }

/-- The response words after a step. -/
def answer (r : Result) : Option (List Word) :=
  match r with
  | .next t => t.response.map Response.words
  | .fault _ => none
  | .refused _ => none

/-- The state after a step. -/
def after (r : Result) : State :=
  match r with
  | .next t => t
  | .fault _ => State.reset
  | .refused _ => State.reset

def isNext (r : Result) : Bool :=
  match r with
  | .next _ => true
  | .fault _ => false
  | .refused _ => false

theorem eq_next_after {r : Result} (h : isNext r = true) : r = .next (after r) := by
  cases r <;> simp_all [isNext, after]

/-- The step runs the placed word as its first instruction (`State.withFetchWord`). -/
theorem test_withFetchWord : answer (step (State.reset.withFetchWord 32 0x30)) = some [0, 0x00010103] := by decide

/-- `RDREG` after reset (section 2.6): every register but the open KEYSIZE. -/
theorem test_rdreg_reset : ([0x00, 0x02, 0x03, 0x04, 0x10, 0x11, 0x12, 0x13, 0x14, 0x15, 0x16, 0x17, 0x18, 0x19, 0x1A, 0x1B] ++
    [0x20, 0x21, 0x30]).map (fun w => answer (issue State.reset [w])) =
    ([128, 1, 2, 0, 0, 0, 16, 0, 0xFFFFFFFF, 0xFFFFFFFF, 32, 0, 0xA695, 0xFFFF, 16, 0] ++ [128, 0, 0x00010103]).map
      (fun v => some [0, v]) := by decide

/-- P2 row 8: XFSTAT = 0x223e. -/
theorem test_rdreg_xfstat : answer (issue { State.reset with
    key := { w := [], nk := 4, valid := true }
    xf := { lc := .transforming, dir := .decrypt, smode := some .cbc, spad := some .pkcs7, fb := Block.zero
            hold := Block.zero, holdValid := true } } [0x04]) = some [0, 0x223e] := by decide

/-- P1 row 16, P3 row 22. -/
theorem test_rdhash : answer (issue { State.reset with crc32 := { State.reset.crc32 with hash := [0x35, 0x24, 0x41, 0xc2]
                                                                                         hashValid := true } } [0x01100000]) =
    some [0, 4, 0xc2412435] ∧ answer (issue State.reset [0x01300000]) = some [5, 0] := by decide

/-- Section 2.2: INIT discards the running value, keeps the hash. -/
theorem test_crc16Init : (after (issue { State.reset with crc16 := ⟨.finalized, 1, 0x1234, 5, [7, 8], true⟩ } [0x10000000])).crc16 =
    ⟨.idle, 0x1234, 0x1234, 5, [7, 8], true⟩ := by decide

theorem test_crc32Init : (after (issue { State.reset with crc32 := ⟨.finalized, 1, 0x12345678, 5, [7, 8], true⟩ } [0x10100000])).crc32 =
    ⟨.idle, 0x12345678, 0x12345678, 5, [7, 8], true⟩ := by decide

theorem test_xcrcInit : (after (issue { State.reset with xcrc := ⟨.accumulating, 1, 0x1234, 5, [7, 8], true⟩ } [0x10200000])).xcrc =
    ⟨.idle, 0x1234, 0x1234, 5, [7, 8], true⟩ := by decide

/-- Section 2.2: `CRC16_SETINIT 0x10000` is illegal; SETINIT re-initialises. -/
theorem test_crc16Setinit : answer (issue State.reset [0x11000000, 0x10000]) = some [7, 0] ∧
    (after (issue { State.reset with crc16 := ⟨.accumulating, 1, 2, 5, [7, 8], true⟩ } [0x11000000, 0x1234])).crc16 =
      ⟨.idle, 0x1234, 0x1234, 5, [7, 8], true⟩ := by decide

theorem test_crc32Setinit : (after (issue { State.reset with crc32 := ⟨.finalized, 1, 2, 5, [7, 8], true⟩ }
    [0x11100000, 0x80000000])).crc32 = ⟨.idle, 0x80000000, 0x80000000, 5, [7, 8], true⟩ := by decide

theorem test_xcrcSetinit : answer (issue State.reset [0x11200000, 0x10000]) = some [7, 0] ∧
    (after (issue { State.reset with xcrc := ⟨.accumulating, 1, 2, 5, [7, 8], true⟩ } [0x11200000, 0])).xcrc =
      ⟨.idle, 0, 0, 5, [7, 8], true⟩ := by decide

/-- SETXOR writes the parameter alone. -/
theorem test_crc16Setxor : (after (issue { State.reset with crc16 := ⟨.accumulating, 1, 2, 5, [7, 8], true⟩ }
    [0x12000000, 0xFFFF])).crc16 = ⟨.accumulating, 1, 2, 0xFFFF, [7, 8], true⟩ := by decide

theorem test_crc32Setxor : (after (issue { State.reset with crc32 := ⟨.finalized, 1, 2, 5, [7, 8], true⟩ }
    [0x12100000, 0xFFFFFFFF])).crc32 = ⟨.finalized, 1, 2, 0xFFFFFFFF, [7, 8], true⟩ := by decide

theorem test_xcrcSetxor : answer (issue State.reset [0x12200000, 0x80000000]) = some [7, 0] ∧
    (after (issue { State.reset with xcrc := ⟨.idle, 1, 2, 5, [7, 8], true⟩ } [0x12200000, 0])).xcrc =
      ⟨.idle, 1, 2, 0, [7, 8], true⟩ := by decide

/-- P1 row 8: "abc" through CRC-16. -/
theorem test_crc16Update : (after (issue host [0x13000000, 0x80000001, 0, 3])).crc16 = ⟨.accumulating, 0x3897, 0, 0, [0, 0], false⟩ := by
  decide +kernel

/-- P1 row 1; section 2.2: a range past the end is BOUNDS, an empty range at the end is legal. -/
theorem test_crc32Update : (after (issue host [0x13100000, 0x80000001, 0, 3])).crc32.reg = 0xCADBBE3D ∧
    answer (issue host [0x13100000, 0x80000001, 1, 3]) = some [0x301, 0] ∧
    answer (issue host [0x13100000, 0x80000001, 3, 0]) = some [0, 0] := by decide +kernel

/-- P1 row 10. -/
theorem test_xcrcUpdate : (after (issue host [0x13200000, 0x80000001, 0, 3])).xcrc =
    ⟨.accumulating, 0x6A88, 0xA695, 0xFFFF, [0, 0], false⟩ := by decide +kernel

/-- P1 row 9. -/
theorem test_crc16Final : answer (issue { State.reset with crc16 := ⟨.accumulating, 0x3897, 0, 0, [0, 0], false⟩ } [0x14000000]) =
    some [0, 2, 0x00003897] := by decide

/-- P1 row 2, and ERR_SEQUENCE from Finalized. -/
theorem test_crc32Final : answer (issue { State.reset with crc32 := { State.reset.crc32 with reg := 0xCADBBE3D } } [0x14100000]) =
    some [0, 4, 0xc2412435] ∧
    answer (issue { State.reset with crc32 := { State.reset.crc32 with lc := .finalized } } [0x14100000]) = some [5, 0] := by decide

/-- Section 1.4: the empty message, `6a 59`. -/
theorem test_xcrcFinal : answer (issue State.reset [0x14200000]) = some [0, 2, 0x0000596A] := by decide

theorem test_md5Init : (after (issue { State.reset with md5 := ⟨.finalized, Md5Words.zero, 1, 2, zeros 64, count 0 16, true⟩ }
    [0x20000000])).md5 = ⟨.idle, ⟨0x67452301, 0xefcdab89, 0x98badcfe, 0x10325476⟩, 0, 0, zeros 64, count 0 16, true⟩ := by decide

/-- P5 row 2: one block transformed, 6 bytes pending. -/
theorem test_md5Update : let e := (after (issue (withBuffers { State.reset with
      md5 := { State.reset.md5 with lc := .accumulating, countLo := 0xF0, buf := List.replicate 30 0x61 ++ zeros 34 } }
      [(9, List.replicate 70 0x61)]) [0x23000000, 0x80000009, 30, 40])).md5
    e.st = ⟨0x89d4ff56, 0x125cd962, 0x69cade33, 0x0033e325⟩ ∧ e.countLo = 0x230 ∧ e.countHi = 0 ∧
      e.buf.take 6 = List.replicate 6 0x61 := by decide +kernel

/-- Section 2.3: the counter's carry, and a negative offset. -/
theorem test_md5Update_count : md5Count 0xFFFFFFF8 0 1 = (0, 1) ∧ md5Count 0 0 0x20000000 = (0, 1) ∧
    answer (issue host [0x23000000, 0x80000001, 0xFFFFFFFF, 1]) = some [0x201, 0] := by decide +kernel

/-- P1 row 13: the digest of "abc", working registers zero. -/
theorem test_md5Final : let r := issue { State.reset with
      md5 := { State.reset.md5 with lc := .accumulating, countLo := 0x18, buf := [0x61, 0x62, 0x63] ++ zeros 61 } } [0x24000000]
    answer r = some [0, 16, 0x98500190, 0xb04fd23c, 0x7d3f96d6, 0x727fe128] ∧ (after r).md5.st = Md5Words.zero ∧
      (after r).md5.lc = .finalized := by decide +kernel

/-- The key 00 01 … of 4, 6 or 8 words. -/
def keyed (nk : Nat) : State := { host with key := keyExpansion (count 0 (4 * nk)) }

/-- P4 row 2: rows of the 32-byte key (section 2.4); a 15-byte key is KEYLEN. -/
theorem test_aesKeyexp : let k := (after (issue host [0x30000000, 0x80000008])).key
    rowAt k.w 8 = ⟨0xa5, 0x73, 0xc2, 0x9f⟩ ∧ rowAt k.w 12 = ⟨0x16, 0x51, 0xa8, 0xcd⟩ ∧ rowAt k.w 59 = ⟨0x6d, 0x68, 0xde, 0x36⟩ ∧
      k.nk = 8 ∧ answer (issue host [0x30000000, 0x8000000A]) = some [0x501, 0] := by decide +kernel

/-- P4 row 5 and row 1. -/
theorem test_aesCipher : answer (issue (keyed 8) [0x31000000, 0x33221100, 0x77665544, 0xbbaa9988, 0xffeeddcc]) =
      some [0, 16, 0xcab7a28e, 0xbf456751, 0x9049fcea, 0x8960494b] ∧
    answer (issue host [0x31000000, 0, 0, 0, 0]) = some [5, 0] := by decide +kernel

/-- P4 row 6. -/
theorem test_aesInvcipher : answer (issue (keyed 8) [0x32000000, 0xcab7a28e, 0xbf456751, 0x9049fcea, 0x8960494b]) =
    some [0, 16, 0x33221100, 0x77665544, 0xbbaa9988, 0xffeeddcc] := by decide +kernel

/-- Section 2.5: 2 is ECB, 3 to 5 not supported, 0 and 6 illegal. -/
theorem test_cfgSetmode : (after (issue State.reset [0x40000002])).mode = .ecb ∧
    [0x40000000, 0x40000003, 0x40000004, 0x40000005, 0x40000006].map (fun w => answer (issue State.reset [w])) =
      [some [7, 0], some [2, 0], some [2, 0], some [2, 0], some [7, 0]] := by decide

theorem test_cfgSetpad : (after (issue State.reset [0x41000001])).padding = .noPad ∧
    (after (issue State.reset [0x41000003])).padding = .zeros ∧
    [0x41000000, 0x41000004, 0x41000005, 0x41000006].map (fun w => answer (issue State.reset [w])) =
      [some [7, 0], some [2, 0], some [2, 0], some [7, 0]] := by decide

/-- P2 row 1; section 2.5: the null checks come before the key length. -/
theorem test_xfCreateEnc : let t := after (issue host [0x42000000, 0x80000002, 0x80000003])
    t.xf = Session.create .encrypt .cbc .pkcs7 (Block.load (count 0x10 16)) ∧ rowAt t.key.w 43 = ⟨0x4d, 0x2b, 0x30, 0xc5⟩ ∧
      xfStat t.xf t.key = 0x2231 ∧ answer (issue host [0x42000000, 0x8000000A, 0]) = some [0x101, 0] := by decide +kernel

/-- P2 row 6; section 2.5 row 12: a 3-byte IV is zero-extended. -/
theorem test_xfCreateDec : (after (issue host [0x43000000, 0x80000002, 0x80000001])).xf =
    Session.create .decrypt .cbc .pkcs7 (Block.load [0x61, 0x62, 0x63]) ∧
    answer (issue { host with xf := Session.create .encrypt .cbc .pkcs7 Block.zero } [0x43000000, 0x80000002, 0x80000003]) =
      some [5, 0] := by decide +kernel

/-- A session under the key 00 01 … 0f and the IV 10 11 … 1f. -/
def session (dir : Dir) (mode : CipherMode) (pad : PaddingMode) : State :=
  { keyed 4 with xf := Session.create dir mode pad (Block.load (count 0x10 16)) }

/-- P2 row 3. -/
theorem test_xfBlock_encrypt : let r := issue (session .encrypt .cbc .pkcs7) [0x44000000, 0x80000004, 0, 32, 0x80000005, 0]
    answer r = some [0, 32] ∧ (after r).mem.bytes 5 0 33 =
      bytes 33 0x9e3c311788a3dae7a3a6018da2c98cc6c7a8dfeeb23acb56f001e9d69664e84b00 ∧
      (after r).xf.fb = Block.load (bytes 16 0xc7a8dfeeb23acb56f001e9d69664e84b) := by decide +kernel

/-- The ciphertext of section 2.5 row 14 in buffer 5. -/
def ciphered : State :=
  withBuffers (session .decrypt .cbc .pkcs7)
    [(5, bytes 48 0x9e3c311788a3dae7a3a6018da2c98cc6c7a8dfeeb23acb56f001e9d69664e84bb78241045d93b045ef028a27bb1a005e)]

/-- P2 rows 7 and 9: the last block is held back. -/
theorem test_xfBlock_decrypt : let r := issue ciphered [0x44000000, 0x80000005, 0, 48, 0x80000006, 0]
    answer r = some [0, 32] ∧ (after r).mem.bytes 6 0 32 = count 0x30 32 ∧
      (after r).xf.hold = Block.load (bytes 16 0xb78241045d93b045ef028a27bb1a005e) := by decide +kernel

/-- P2 row 4. -/
theorem test_xfFinal_encrypt : answer (issue { session .encrypt .cbc .pkcs7 with
      xf := { (session .encrypt .cbc .pkcs7).xf with fb := Block.load (bytes 16 0xc7a8dfeeb23acb56f001e9d69664e84b) } }
      [0x45000000, 0x80000004, 32, 8]) = some [0, 16, 0x044182b7, 0x45b0935d, 0x278a02ef, 0x5e001abb] := by decide +kernel

/-- The blocks of section 2.5 whose plaintext ends in 02 (buffer 5) and in 11 (buffer 6). -/
def padCases : State :=
  withBuffers (session .decrypt .ecb .pkcs7)
    [(5, bytes 16 0xd3f220547566361a5656395c327e7a10), (6, bytes 16 0x4493ada3306ce110f48157d8668959d7)]

/-- Section 2.5, decryption corner cases: only the last byte of the padding is read; 0x11 is refused. -/
theorem test_xfFinal_decrypt :
    answer (issue padCases [0x45000000, 0x80000005, 0, 16]) = some [0, 14, 0x03020100, 0x07060504, 0x0b0a0908, 0x00000d0c] ∧
      answer (issue padCases [0x45000000, 0x80000006, 0, 16]) = some [6, 0] ∧
      (after (issue padCases [0x45000000, 0x80000006, 0, 16])).xf = padCases.xf := by decide +kernel

/-- P2 row 12. -/
theorem test_xfDispose : let t := after (issue (session .decrypt .ecb .zeros) [0x46000000])
    t.key = KeySchedule.cleared ∧ t.xf = Session.cleared ∧ t.mode = .cbc := by decide +kernel

/-! ## The host's moves, assembler text and pseudo-commands -/

/-- A buffer rewritten, a buffer dropped, a reset, between commands; none of them inside a transaction. -/
theorem test_hostMoves :
    (after (step { host with moves := [.setBuffer 1 [9]] })).mem.bufLen 1 = some 1 ∧
    (after (step { host with moves := [.dropBuffer 1] })).mem.bufLen 1 = none ∧
    (after (step { host with mode := .ecb, moves := [.reset] })).mode = .cbc ∧
    (after (step { host with moves := [.send [0x20000000]] })).link = [0x20000000] ∧
    isNext (step { host with link := [0x13000000], moves := [.reset] }) = false := by decide +kernel

/-- The examples of rule R94. -/
theorem test_text : textOf (.crc32Update ⟨true, 3⟩ 0 3) = "CRC32_UPDATE @3, 0, 3" ∧
    textOf (.xfBlock ⟨true, 4⟩ 0xFFFFFFFF 16 ⟨false, 9⟩ 0) = "XF_BLOCK @4, -1, 16, null, 0" ∧
    textOf (.aesCipher 0x33221100 0x77665544 0xbbaa9988 0xffeeddcc) = "AES_CIPHER 00112233445566778899aabbccddeeff" ∧
    textOf (.cfgSetmode 2) = "CFG_SETMODE 2" := by decide +kernel

/-- Section 1.3: `CRC32_COMPUTE @1, 0, 3` of "abc"; section 1.5: ENCRYPT of 16 zero bytes; an error stops the expansion. -/
theorem test_pseudo :
    answer (crc32Compute ⟨true, 1⟩ 0 3 host) = some [0, 4, 0xc2412435] ∧
    (after (crc32Compute ⟨true, 1⟩ 0 3 host)).crc32.lc = .idle ∧
    answer (encrypt ⟨true, 2⟩ ⟨true, 9⟩ ⟨true, 9⟩ (withBuffers host [(9, zeros 16)])) =
      some [0, 32, 0x373ba1c6, 0x825b8f87, 0x62814f6f, 0x79d8c8a1, 0x7392a2b1, 0x07422cbe, 0x93e3aca5, 0xfbb68c39] ∧
    answer (decrypt ⟨true, 2⟩ ⟨false, 0⟩ ⟨true, 1⟩ host) = some [0x101, 0] := by decide +kernel

/-! ## Shared operations against `95_test_vectors.md` section 2.1 -/

theorem test_rotate : rotateLeft 0x57ce06d8 7 = 0xe7036c2b ∧ rotateLeft 0xdeadbeef 31 = 0xef56df77 ∧
    rotateRight 0x12345678 8 = 0x78123456 ∧ rotateRight 0xdeadbeef 31 = 0xbd5b7ddf := by decide

theorem test_encode_words : encodeWords [0x67452301, 0xefcdab89] 8 true = some [0x01, 0x23, 0x45, 0x67, 0x89, 0xab, 0xcd, 0xef] ∧
    encodeWords [0x67452301] 4 false = some [0x67, 0x45, 0x23, 0x01] ∧
    decodeWords [0x61, 0x62, 0x63, 0x80] 4 true = some [0x80636261] ∧
    decodeWords [0x61, 0x62, 0x63, 0x80] 4 false = some [0x61626380] ∧ encodeWords [1, 2] 6 true = none := by decide

/-! ## Witnesses: for each statement with hypotheses, concrete values that meet them together -/

/-- A range given with the length of its buffer. -/
theorem inRange_of {m : Memory} {d : Descriptor} {off cnt : Word} {h o n : Nat} (len : Nat)
    (e : d.valid = true ∧ d.handle.toNat = h ∧ off.toInt = o ∧ cnt.toInt = n ∧ m.bufLen h = some len ∧ o + n ≤ len) :
    InRange m d off cnt h o n :=
  ⟨e.1, e.2.1, e.2.2.1, e.2.2.2.1, len, e.2.2.2.2.1, e.2.2.2.2.2⟩

/-- A command in a state, one step of `exec`. -/
theorem exec_after {i : Instr} {s : State} (h : isNext (exec i s) = true) : exec i s = .next (after (exec i s)) :=
  eq_next_after h

/-! ### Encoding and the step -/

theorem witness_DecodedWordsAreTheEncoding : decode [0x11000000, 7, 9] = .command (.crc16Setinit 7) [9] := by decide

/-- Its five clauses: a command, two command words of one UNIT and OP, an illegal word, an unfinished transaction. -/
theorem witness_TransactionLengthFromUnitAndOp :
    decode [0x13000000, 0, 0, 0, 5] = .command (.crc16Update ⟨false, 0⟩ 0 0) [5] ∧
    (unitOf 0x13000000 = unitOf 0x13200000 ∧ opOf 0x13000000 = opOf 0x13200000 ∧
      decode [0x13200000, 0, 0, 0] = .command (.xcrcUpdate ⟨false, 0⟩ 0 0) []) ∧
    decode [0x50000000, 4] = .illegal .unassignedUnit [4] ∧ decode [0x44000000, 0, 0] = .incomplete := by decide

theorem witness_StepRunsTheCommandOnTheLink :
    ({ State.reset with link := [0x11000000, 7, 9] } : State).link = encode (.crc16Setinit 7) ++ [9] ∧
    decode ({ State.reset with link := [0x11000000, 7, 9] } : State).link = .command (.crc16Setinit 7) [9] ∧
    decode ({ State.reset with link := [0x11000000], moves := [.reset] } : State).link = .incomplete ∧
    (decode State.reset.link = .incomplete ∧ State.reset.moves = []) := by decide

/-- Every line of rule R91 at its boundary, and a legal neighbour of each. -/
theorem witness_ExactlyTheIllegalTransactionsAreRefused :
    ([0x50000000, 0x15000000, 0x10300000, 0x01400000, 0x20100000, 0x20010000, 0x20000001, 0x00000005, 0x40000000] ++
      [0x41000006, 0x0000001C, 0x00000022, 0xFFFFFFFF] : List Word).all (fun cw : Word => decide (IllegalWord cw)) ∧
    ([0x46000000, 0x14200000, 0x10200000, 0x01300000, 0x20000000, 0x00000004, 0x40000001, 0x41000005] ++
      [0x0000001B, 0x00000021] : List Word).all (fun cw : Word => decide (¬IllegalWord cw)) ∧
    (¬IllegalWord 0x11000000 ∧ TakesImm16 0x11000000 ∧ 2 ^ 16 ≤ (0x10000 : Word).toNat) ∧
    (¬IllegalWord 0x12200000 ∧ TakesImm16 0x12200000 ∧ 2 ^ 16 ≤ (0xFFFFFFFF : Word).toNat) ∧ ¬TakesImm16 0x11100000 := by
  refine ⟨?_, ?_, ?_, ?_, ?_⟩ <;> decide +kernel

/-- Its third clause: a step that answers ERR_ILLEGAL from a state that has not. -/
theorem witness_ExactlyTheIllegalTransactionsAreRefused_only :
    State.reset.response ≠ some (.error .illegal) ∧ isNext (issue State.reset [0x50000000]) = true ∧
    (after (issue State.reset [0x50000000])).response = some (.error .illegal) := by decide

theorem witness_WordsCarryBytesLowByteFirst :
    (3 < 4 * 1 ∧ (Response.ok 1 [0x61]).words = [0, 1, 0x61]) ∧ (15 : Nat) < 16 := by decide

/-! ### Errors -/

theorem witness_FailedCommandChangesNothing : exec .crc16Final { State.reset with crc16 := ⟨.finalized, 0, 0, 0, [], false⟩ } =
      .next (after (exec .crc16Final { State.reset with crc16 := ⟨.finalized, 0, 0, 0, [], false⟩ })) ∧
    (after (exec .crc16Final { State.reset with crc16 := ⟨.finalized, 0, 0, 0, [], false⟩ })).response = some (.error .sequence) :=
  ⟨exec_after (by decide), by decide⟩

theorem witness_ErrorsStayInTheirTable : exec (.rdreg 5) State.reset = .next (after (exec (.rdreg 5) State.reset)) ∧
    (after (exec (.rdreg 5) State.reset)).response = some (.error .illegal) := ⟨exec_after (by decide), by decide⟩

/-- NULL (both ways), NEG (offset, count, both at their boundary -1 and -2^31), BOUNDS by one byte, and no error on the
empty range at the end. -/
theorem witness_RangeErrorsInOrder :
    RangeError host.mem ⟨false, 1⟩ 0 0 (some .null) ∧ RangeError host.mem ⟨true, 77⟩ 0xFFFFFFFF 0 (some .null) ∧
    RangeError host.mem ⟨true, 1⟩ 0xFFFFFFFF 0 (some .neg) ∧ RangeError host.mem ⟨true, 1⟩ 9 0x80000000 (some .neg) ∧
    RangeError host.mem ⟨true, 1⟩ 1 3 (some .bounds) ∧ RangeError host.mem ⟨true, 1⟩ 4 0 (some .bounds) ∧
    RangeError host.mem ⟨true, 1⟩ 0x7FFFFFFF 0x7FFFFFFF (some .bounds) ∧ RangeError host.mem ⟨true, 1⟩ 3 0 none := by
  simp only [RangeError]
  decide +kernel

/-- The lifecycle premises of its eleven clauses. -/
theorem witness_RangeErrorsInOrder_lifecycles :
    (host.crc16.lc ≠ .finalized ∧ host.crc32.lc ≠ .finalized ∧ host.xcrc.lc ≠ .finalized ∧ host.md5.lc ≠ .finalized) ∧
    (after (exec .crc16Final host)).crc16.lc = .finalized ∧ (after (exec .crc32Final host)).crc32.lc = .finalized ∧
    (after (exec .xcrcFinal host)).xcrc.lc = .finalized ∧ (after (exec .md5Final host)).md5.lc = .finalized ∧
    IsOpen (session .encrypt .cbc .zeros).xf ∧ host.xf.lc = .disposed ∧
    (after (exec (.xfFinal ⟨true, 1⟩ 0 0) (session .encrypt .cbc .zeros))).xf.lc = .finalized := by decide +kernel

/-! ### Whole-machine rules -/

/-- A state with the invariant and a command to run: after reset, MODE set to ECB, MD5_INIT on the link. -/
theorem witness_InvariantKeptByEveryStep : ({ State.reset with mode := .ecb, link := [0x20000000] } : State).Inv ∧
    step { State.reset with mode := .ecb, link := [0x20000000] } =
      .next (after (step { State.reset with mode := .ecb, link := [0x20000000] })) := by
  refine ⟨⟨?_, ?_, ?_, ?_, ?_, rfl, ?_, reset_mem_wf⟩, eq_next_after (by decide)⟩
  · constructor <;> decide
  · constructor <;> decide
  · constructor <;> decide
  · constructor <;> decide
  · exact ⟨rfl, fun _ => ⟨rfl, rowAt_replicate _⟩, fun h => absurd h (by decide), fun h => absurd h (by decide)⟩
  · constructor <;> decide

/-- Two states that differ in the link and in a buffer the command does not name. -/
theorem witness_NothingElseEntersACommand :
    let s := withBuffers State.reset [(1, [0x61]), (2, [1])]
    let s' := { withBuffers State.reset [(1, [0x61]), (2, [2])] with link := [0] }
    s.mem.wf ∧ s'.mem.wf ∧ registers s = registers s' ∧ SameBuffers (descriptors (.crc16Update ⟨true, 1⟩ 0 1)) s.mem s'.mem ∧
      isNext (exec (.crc16Update ⟨true, 1⟩ 0 1) s) = true ∧ isNext (exec (.crc16Update ⟨true, 1⟩ 0 1) s') = true := by
  decide +kernel

theorem witness_OnlyXfBlockWritesHostMemory : exec .md5Init host = .next (after (exec .md5Init host)) :=
  exec_after (by decide +kernel)

/-- A session and another command; a key loaded; a key disposed of. -/
theorem witness_KeyScheduleImmutableInASession :
    ((session .encrypt .cbc .pkcs7).xf.lc ≠ .disposed ∧ isNext (exec .md5Init (session .encrypt .cbc .pkcs7)) = true) ∧
    (host.key.valid = false ∧ (after (exec (.aesKeyexp ⟨true, 2⟩) host)).key.valid = true) ∧
    ((keyed 4).key.valid = true ∧ (after (exec .xfDispose (keyed 4))).key.valid = false) := by decide +kernel

/-- An arc taken, an arc refused, and a command its lifecycle does not allow. -/
theorem witness_SessionLifecycleArcs :
    IsOk (after (exec .xfDispose host)) ∧ ¬IsOk (after (exec (.xfFinal ⟨true, 1⟩ 0 0) host)) ∧
    ¬xfAllowed (.xfFinal ⟨true, 1⟩ 0 0) host.xf.lc ∧ ¬xfAllowed (.aesKeyexp ⟨true, 2⟩) (session .encrypt .cbc .pkcs7).xf.lc := by
  refine ⟨⟨0, [], rfl⟩, ?_, ?_, ?_⟩
  · rintro ⟨v, out, h⟩
    have e : (after (exec (.xfFinal ⟨true, 1⟩ 0 0) host)).response = some (.error .disposed) := by decide +kernel
    rw [e] at h; cases h
  · exact fun h => by rcases h with h | h <;> cases h
  · exact fun h => by cases h

theorem witness_CrcLifecycleArcs :
    (crcRole (.crc16Update ⟨true, 1⟩ 0 3) = some (.crc16, .update) ∧ crcArc .update (lcOf host .crc16) = some .accumulating ∧
      IsOk (after (exec (.crc16Update ⟨true, 1⟩ 0 3) host))) ∧
    (crcRole .crc32Final = some (.crc32, .final) ∧
      crcArc .final (lcOf { host with crc32 := ⟨.finalized, 0, 0, 0, [], true⟩ } .crc32) = none) := by
  exact ⟨⟨rfl, rfl, 0, [], by decide +kernel⟩, rfl, rfl⟩

theorem witness_Md5LifecycleArcs :
    (md5Role (.md5Update ⟨true, 1⟩ 0 3) = some .update ∧ md5Arc .update host.md5.lc = some .accumulating ∧
      IsOk (after (exec (.md5Update ⟨true, 1⟩ 0 3) host))) ∧
    (md5Role .md5Final = some .final ∧ md5Arc .final .finalized = none) := by
  exact ⟨⟨rfl, rfl, 0, [], by decide +kernel⟩, rfl, rfl⟩

theorem witness_HashKeptUntilTheNextFinal :
    isNext (exec .crc16Init { host with crc16 := ⟨.finalized, 0, 0, 0, [1, 2], true⟩ }) = true ∧
    Instr.crc16Init ≠ .crc16Final ∧ Instr.crc16Init ≠ .crc32Final ∧ Instr.crc16Init ≠ .xcrcFinal ∧
    Instr.crc16Init ≠ .md5Final := by decide +kernel

/-! ### Frames -/

theorem witness_CrcCommandFrames : crcRole .xcrcFinal = some (.xcrc, .final) ∧ isNext (exec .xcrcFinal host) = true := by
  decide +kernel

theorem witness_Md5CommandFrames : md5Role (.md5Update ⟨true, 1⟩ 0 3) ≠ none ∧
    isNext (exec (.md5Update ⟨true, 1⟩ 0 3) host) = true := by decide +kernel

theorem witness_CipherAndSystemFrames : (keyed 4).aesState = Block.zero ∧
    [Instr.rdreg 0, .rdhash 0, .aesKeyexp ⟨true, 2⟩, .aesCipher 0 0 0 0, .aesInvcipher 0 0 0 0, .cfgSetmode 2, .cfgSetpad 1,
      .xfCreateEnc ⟨true, 2⟩ ⟨true, 3⟩, .xfCreateDec ⟨true, 2⟩ ⟨true, 3⟩, .xfFinal ⟨true, 1⟩ 0 0, .xfDispose].all
      (fun i => isNext (exec i (keyed 4))) = true := by decide +kernel

theorem witness_XfBlockFrame : (session .encrypt .cbc .pkcs7).mem.wf ∧ (session .encrypt .cbc .pkcs7).aesState = Block.zero ∧
    isNext (exec (.xfBlock ⟨true, 4⟩ 0 16 ⟨true, 5⟩ 8) (session .encrypt .cbc .pkcs7)) = true ∧
    (after (exec (.xfBlock ⟨true, 4⟩ 0 16 ⟨true, 5⟩ 8) (session .encrypt .cbc .pkcs7))).response = some (.ok 16 []) ∧
    (5 : Nat) < 2 ^ 31 ∧ ¬((8 : Nat) ≤ 5) := by decide +kernel

/-! ### CRC engines -/

theorem witness_CrcInitAndParameters : (0xFFFF : Word).toNat < 2 ^ 16 ∧ 2 ^ 16 ≤ (0x10000 : Word).toNat := by decide

/-- A range of three bytes and the empty range at the end. -/
theorem witness_CrcUpdateStepsOncePerByte : InRange host.mem ⟨true, 1⟩ 0 3 1 0 3 ∧ InRange host.mem ⟨true, 1⟩ 3 0 1 3 0 ∧
    host.crc16.lc ≠ .finalized ∧ host.crc32.lc ≠ .finalized ∧ host.xcrc.lc ≠ .finalized :=
  ⟨inRange_of 3 (by decide +kernel), inRange_of 3 (by decide +kernel), by decide +kernel⟩

theorem witness_CrcFinalEmitsTheResult : (host.crc16.lc ≠ .finalized ∧ host.crc32.lc ≠ .finalized ∧ host.xcrc.lc ≠ .finalized) ∧
    ({ host with crc16 := ⟨.finalized, 0, 0, 0, [], true⟩ } : State).crc16.lc = .finalized ∧
    ({ host with crc32 := ⟨.finalized, 0, 0, 0, [], true⟩ } : State).crc32.lc = .finalized ∧
    ({ host with xcrc := ⟨.finalized, 0, 0, 0, [], true⟩ } : State).xcrc.lc = .finalized := by decide +kernel

theorem witness_CrcUpdatesCanBeSplit : InRange host.mem ⟨true, 1⟩ 0 2 1 0 2 ∧ InRange host.mem ⟨true, 1⟩ 2 1 1 (0 + 2) 1 ∧
    InRange host.mem ⟨true, 1⟩ 0 3 1 0 (2 + 1) :=
  ⟨inRange_of 3 (by decide +kernel), inRange_of 3 (by decide +kernel), inRange_of 3 (by decide +kernel)⟩

theorem witness_XcrcIsTheBitSerialRegister : InRange host.mem ⟨true, 1⟩ 0 3 1 0 3 ∧
    isNext (exec (.xcrcUpdate ⟨true, 1⟩ 0 3) host) = true ∧ IsOk (after (exec (.xcrcUpdate ⟨true, 1⟩ 0 3) host)) :=
  ⟨inRange_of 3 (by decide +kernel), by decide +kernel, 0, [], by decide +kernel⟩

theorem witness_Crc16IsTheByteSwappedArcRegister : InRange host.mem ⟨true, 1⟩ 0 3 1 0 3 ∧
    isNext (exec (.crc16Update ⟨true, 1⟩ 0 3) host) = true ∧ IsOk (after (exec (.crc16Update ⟨true, 1⟩ 0 3) host)) :=
  ⟨inRange_of 3 (by decide +kernel), by decide +kernel, 0, [], by decide +kernel⟩

theorem witness_Crc32IsTheReflectedRegister : InRange host.mem ⟨true, 1⟩ 0 3 1 0 3 ∧
    isNext (exec (.crc32Update ⟨true, 1⟩ 0 3) host) = true ∧ IsOk (after (exec (.crc32Update ⟨true, 1⟩ 0 3) host)) :=
  ⟨inRange_of 3 (by decide +kernel), by decide +kernel, 0, [], by decide +kernel⟩

/-! ### ByteOps and MD5 -/

/-- The rotation amounts at both ends. -/
theorem witness_RotatesMoveBits : (0 ≤ 31 ∧ 31 ≤ 31) ∧ rotateLeft 0x80000001 31 = 0xC0000000 ∧
    rotateRight 0x80000001 1 = 0xc0000000 := by decide

theorem witness_EncodeAndDecodeAreInverse : (8 % 4 = 0 ∧ [(1 : Word), 2].length = 8 / 4) ∧
    (4 % 4 = 0 ∧ 4 ≤ [(1 : Byte), 2, 3, 4, 5].length) ∧ 6 % 4 ≠ 0 := by decide

theorem witness_Md5InitAndFinalRegisters : host.md5.lc ≠ .finalized ∧
    ({ host with md5 := host.md5.final } : State).md5.lc = .finalized := ⟨by decide +kernel, rfl⟩

/-- An engine that holds "ab" (2 bytes pending), in a state with a range of three bytes. -/
def holding : State :=
  { host with md5 := { Md5Engine.reset with lc := .accumulating, countLo := 16, buf := [0x61, 0x62] ++ zeros 62 } }

theorem witness_Md5UpdateAppendsToTheMessage : InRange holding.mem ⟨true, 1⟩ 0 3 1 0 3 ∧ holding.md5.lc ≠ .finalized ∧
    Md5Holds [0x61, 0x62] holding.md5 :=
  ⟨inRange_of 3 (by decide +kernel), by decide +kernel, by unfold Md5Holds; decide +kernel⟩

theorem witness_Md5FinalReturnsTheDigestOfTheMessage : holding.md5.lc ≠ .finalized ∧ Md5Holds [0x61, 0x62] holding.md5 :=
  ⟨by decide +kernel, by unfold Md5Holds; decide +kernel⟩

theorem witness_Md5StepWritesOneWord : (List.replicate 16 (0 : Word)).length = 16 ∧
    (60 < 64 ∧ 60 % 4 = 0) ∧ (61 < 64 ∧ 61 % 4 = 1) ∧ (62 < 64 ∧ 62 % 4 = 2) ∧ 63 < 64 ∧ 63 % 4 = 3 := by decide

/-! ### AES -/

theorem witness_SboxIsTheAffineInverse : (0x53 : Byte) ≠ 0 := by decide

/-- Each key length, with a row of each clause at its boundary. -/
theorem witness_KeyExpansionRows : (count 0 16).length = 4 * 4 ∧ (count 0 24).length = 4 * 6 ∧ (count 0 32).length = 4 * 8 ∧
    (3 < 4 ∧ 4 ≤ 4 ∧ 43 < 4 * (4 + 7) ∧ 4 * (4 + 7) ≤ 44) ∧ (59 < 4 * (8 + 7) ∧ 4 * (8 + 7) ≤ 60) := by decide

theorem witness_CipherRoundSequence : 14 = (keyed 8).key.nk.toNat + 6 := by decide +kernel

/-- Its four clauses: a session, a null key, a 15-byte key, a 16-byte and a 32-byte key. -/
theorem witness_AesKeyexpLoadsTheKey : (session .encrypt .cbc .pkcs7).xf.lc ≠ .disposed ∧
    (host.xf.lc = .disposed ∧ IsNull host.mem ⟨true, 77⟩ ∧ IsNull host.mem ⟨false, 2⟩) ∧
    (¬IsNull host.mem ⟨true, 10⟩ ∧ lenOf host.mem ⟨true, 10⟩ ∉ [16, 24, 32]) ∧
    (¬IsNull host.mem ⟨true, 2⟩ ∧ lenOf host.mem ⟨true, 2⟩ ∈ [16, 24, 32]) ∧
    (¬IsNull host.mem ⟨true, 8⟩ ∧ lenOf host.mem ⟨true, 8⟩ ∈ [16, 24, 32]) := by decide +kernel

theorem witness_AesBlockCommandsReturnTheBlock : (keyed 6).key.valid = true ∧ host.key.valid = false := by decide +kernel

theorem witness_InvCipherUndoesCipher : (keyed 6).key.valid = true := by decide +kernel

/-! ### Configuration and sessions -/

/-- The codes at the boundaries of the clauses: 0, 1, 2, 3, 4, 5, 6, 0xFFFF. -/
theorem witness_ConfigurationCodes : (0 : BitVec 16).toNat = 0 ∧ (1 : BitVec 16).toNat = 1 ∧ (2 : BitVec 16).toNat = 2 ∧
    (3 ≤ (3 : BitVec 16).toNat ∧ (3 : BitVec 16).toNat = 3 ∧ 4 ≤ (4 : BitVec 16).toNat) ∧
    ((5 : BitVec 16).toNat ≤ 5 ∧ 5 < (6 : BitVec 16).toNat ∧ 5 < (0xFFFF : BitVec 16).toNat) := by decide

theorem witness_XfCreateStartsASession : (session .encrypt .cbc .pkcs7).xf.lc ≠ .disposed ∧ host.xf.lc = .disposed ∧
    (IsNull host.mem ⟨true, 77⟩ ∧ ¬IsNull host.mem ⟨true, 2⟩ ∧ ¬IsNull host.mem ⟨true, 3⟩ ∧ ¬IsNull host.mem ⟨true, 1⟩) ∧
    (lenOf host.mem ⟨true, 10⟩ ∉ [16, 24, 32] ∧ ¬IsNull host.mem ⟨true, 10⟩) ∧ lenOf host.mem ⟨true, 2⟩ ∈ [16, 24, 32] := by
  decide +kernel

/-- Disposed, finalized, null; then NEG at -1, BOUNDS by one byte, OVERLAP by one byte and not at neighbouring ranges,
LENGTH at 15, and a pass at 16 and at 0. -/
theorem witness_XfBlockErrorsInOrder :
    host.xf.lc = .disposed ∧
    ({ host with xf := { (Session.create .encrypt .cbc .pkcs7 Block.zero) with lc := .finalized } } : State).xf.lc = .finalized ∧
    IsOpen (session .encrypt .cbc .pkcs7).xf ∧ (IsNull (session .encrypt .cbc .pkcs7).mem ⟨false, 4⟩) ∧
    (¬IsNull (session .encrypt .cbc .pkcs7).mem ⟨true, 4⟩ ∧ ¬IsNull (session .encrypt .cbc .pkcs7).mem ⟨true, 5⟩) ∧
    (0xFFFFFFFF : Word).toInt < 0 ∧
    (lenOf (session .encrypt .cbc .pkcs7).mem ⟨true, 4⟩ : Int) < (25 : Word).toInt + (16 : Word).toInt ∧
    (24 : Word).toInt + (16 : Word).toInt ≤ lenOf (session .encrypt .cbc .pkcs7).mem ⟨true, 4⟩ ∧
    (0 < (16 : Word).toInt ∧ (0 : Word).toInt < (15 : Word).toInt + (16 : Word).toInt ∧
      (15 : Word).toInt < (0 : Word).toInt + (16 : Word).toInt) ∧
    ¬((16 : Word).toInt < (0 : Word).toInt + (16 : Word).toInt) ∧ (15 : Word).toInt % 16 ≠ 0 ∧ (16 : Word).toInt % 16 = 0 ∧
    (0 : Word).toInt % 16 = 0 := by decide +kernel

/-- Two blocks from buffer 4 to buffer 5, and two ranges of buffer 5 that touch. -/
theorem blockOperands_45 (m : Memory) (h4 : m.bufLen 4 = some 40) (h5 : m.bufLen 5 = some 48) :
    BlockOperands m ⟨true, 4⟩ 8 32 ⟨true, 5⟩ 16 4 8 2 5 16 ∧ BlockOperands m ⟨true, 5⟩ 0 16 ⟨true, 5⟩ 16 5 0 1 5 16 ∧
    BlockOperands m ⟨true, 4⟩ 40 0 ⟨true, 5⟩ 48 4 40 0 5 48 :=
  ⟨⟨inRange_of 40 ⟨rfl, rfl, rfl, rfl, h4, by decide⟩, inRange_of 48 ⟨rfl, rfl, rfl, rfl, h5, by decide⟩, by decide⟩,
   ⟨inRange_of 48 ⟨rfl, rfl, rfl, rfl, h5, by decide⟩, inRange_of 48 ⟨rfl, rfl, rfl, rfl, h5, by decide⟩, by decide⟩,
   ⟨inRange_of 40 ⟨rfl, rfl, rfl, rfl, h4, by decide⟩, inRange_of 48 ⟨rfl, rfl, rfl, rfl, h5, by decide⟩, by decide⟩⟩

theorem witness_XfBlockEncrypts : let s := session .encrypt .cbc .pkcs7
    s.mem.wf ∧ IsOpen s.xf ∧ s.xf.dir = .encrypt ∧ s.xf.smode = some .cbc ∧
      BlockOperands s.mem ⟨true, 4⟩ 8 32 ⟨true, 5⟩ 16 4 8 2 5 16 :=
  ⟨by decide +kernel, by decide +kernel, rfl, rfl, (blockOperands_45 _ (by decide +kernel) (by decide +kernel)).1⟩

/-- No hold-back; hold-back with no new block; hold-back with new blocks, first and later call. -/
theorem witness_XfBlockDecrypts :
    (let s := session .decrypt .ecb .zeros;
      s.mem.wf ∧ IsOpen s.xf ∧ s.xf.dir = .decrypt ∧ s.xf.smode = some .ecb ∧ s.xf.spad = some .zeros ∧
        BlockOperands s.mem ⟨true, 4⟩ 8 32 ⟨true, 5⟩ 16 4 8 2 5 16) ∧
    (let s := session .decrypt .cbc .pkcs7;
      s.mem.wf ∧ IsOpen s.xf ∧ s.xf.dir = .decrypt ∧ s.xf.smode = some .cbc ∧ s.xf.spad = some .pkcs7 ∧
        BlockOperands s.mem ⟨true, 5⟩ 0 16 ⟨true, 5⟩ 16 5 0 1 5 16 ∧ BlockOperands s.mem ⟨true, 4⟩ 40 0 ⟨true, 5⟩ 48 4 40 0 5 48 ∧
        1 = (if ({ s.xf with holdValid := true } : Session).holdValid then 1 else 1 - 1) ∧
        0 = (if s.xf.holdValid then 1 else 1 - 1)) :=
  ⟨⟨by decide +kernel, by decide +kernel, rfl, rfl, rfl, (blockOperands_45 _ (by decide +kernel) (by decide +kernel)).1⟩,
   ⟨by decide +kernel, by decide +kernel, rfl, rfl, rfl, (blockOperands_45 _ (by decide +kernel) (by decide +kernel)).2.1,
    (blockOperands_45 _ (by decide +kernel) (by decide +kernel)).2.2, rfl, rfl⟩⟩

/-- None with whole and with broken blocks. -/
theorem witness_XfFinalEncrypts : let s := session .encrypt .cbc .noPad
    IsOpen s.xf ∧ s.xf.dir = .encrypt ∧ s.xf.smode = some .cbc ∧ s.xf.spad = some .noPad ∧
      (InRange s.mem ⟨true, 4⟩ 0 32 4 0 32 ∧ 32 % 16 = 0) ∧ (InRange s.mem ⟨true, 4⟩ 0 31 4 0 31 ∧ 31 % 16 ≠ 0) :=
  ⟨by decide +kernel, rfl, rfl, rfl, ⟨inRange_of 40 (by decide +kernel), rfl⟩, inRange_of 40 (by decide +kernel), by decide⟩

/-- A broken block, an empty stream, and last bytes 2 (cut) and 0x11 (refused) as `95_test_vectors.md` section 2.5 has
them (`test_xfFinal_decrypt`); a last byte of 0 is refused too. -/
theorem witness_XfFinalDecrypts :
    IsOpen padCases.xf ∧ padCases.xf.dir = .decrypt ∧ padCases.xf.smode = some .ecb ∧ padCases.xf.spad = some .pkcs7 ∧
      (InRange padCases.mem ⟨true, 5⟩ 0 16 5 0 16 ∧ 16 % 16 = 0) ∧ (InRange padCases.mem ⟨true, 5⟩ 0 15 5 0 15 ∧ 15 % 16 ≠ 0) ∧
      (InRange padCases.mem ⟨true, 5⟩ 16 0 5 16 0 ∧ waiting padCases.xf (padCases.mem.bytes 5 16 0) = []) ∧
      (invCipher padCases.key (Block.load (padCases.mem.bytes 5 0 16))).bytes.getLast? = some 2 ∧
      (invCipher padCases.key (Block.load (padCases.mem.bytes 6 0 16))).bytes.getLast? = some 0x11 :=
  ⟨by decide +kernel, rfl, rfl, rfl, ⟨inRange_of 16 (by decide +kernel), rfl⟩, ⟨inRange_of 16 (by decide +kernel), by decide⟩,
    ⟨inRange_of 16 (by decide +kernel), rfl⟩, by decide +kernel, by decide +kernel⟩

/-- The session of section 2.5 row 5: "abc" encrypted, and its ciphertext in buffer 5 before a decrypt session. -/
def roundTrip : State := withBuffers (session .decrypt .cbc .pkcs7) [(5, bytes 16 0x12502cb082a43c4b029bb67b4f00f5d7)]

theorem witness_DecryptOfEncryptIsThePlaintext : let s := session .encrypt .cbc .pkcs7
    InRange s.mem ⟨true, 1⟩ 0 3 1 0 3 ∧ IsOpen s.xf ∧ s.xf.dir = .encrypt ∧ s.xf.smode = some .cbc ∧ s.xf.spad = some .pkcs7 ∧
      isNext (exec (.xfFinal ⟨true, 1⟩ 0 3) s) = true ∧
      (after (exec (.xfFinal ⟨true, 1⟩ 0 3) s)).response = some (.ok 16 (bytes 16 0x12502cb082a43c4b029bb67b4f00f5d7)) ∧
      roundTrip.key = s.key ∧ roundTrip.xf = { s.xf with dir := .decrypt, hold := Block.zero, holdValid := false } ∧
      InRange roundTrip.mem ⟨true, 5⟩ 0 16 5 0 16 ∧
      roundTrip.mem.bytes 5 0 16 = bytes 16 0x12502cb082a43c4b029bb67b4f00f5d7 :=
  ⟨inRange_of 3 (by decide +kernel), by decide +kernel, rfl, rfl, rfl, by decide +kernel, by decide +kernel, rfl, rfl,
    inRange_of 16 (by decide +kernel), by decide +kernel⟩

/-- The key schedule of a 16-byte key has the invariant. -/
theorem keyed_inv : (keyed 4).key.Inv := by
  refine ⟨by decide +kernel, fun h => absurd h (by decide +kernel), fun _ => by decide +kernel, fun _ i hi => ?_⟩
  have hw : ∀ j : Fin 60, 44 ≤ j.val → rowAt (keyed 4).key.w j.val = Quad.zero := by decide +kernel
  have hr : (keyed 4).key.rounds = 10 := by decide +kernel
  have hl : (keyed 4).key.w.length = 60 := by decide +kernel
  rw [hr] at hi
  by_cases h : i < 60
  · exact hw ⟨i, h⟩ hi
  · exact List.getD_eq_default _ _ (by omega)

/-- So has a session just created, whatever the host's buffers. -/
theorem session_inv (dir : Dir) (mode : CipherMode) (pad : PaddingMode) (m : Memory) (h : m.wf) :
    ({ session dir mode pad with mem := m } : State).Inv where
  crc16 := show (keyed 4).crc16.Inv 2 by constructor <;> decide +kernel
  crc32 := show (keyed 4).crc32.Inv 4 by constructor <;> decide +kernel
  xcrc := show (keyed 4).xcrc.Inv 2 by constructor <;> decide +kernel
  md5 := show (keyed 4).md5.Inv by constructor <;> decide +kernel
  key := keyed_inv
  aesState := show (keyed 4).aesState = Block.zero by decide +kernel
  xf :=
    { disposed := nofun
      live := fun _ => ⟨show (keyed 4).key.valid = true by decide +kernel, nofun, nofun⟩
      held := nofun
      notHeld := fun _ => rfl }
  mem := h

/-- Two buffers: one block, then the rest of buffer 4 (24 bytes), against all 40 bytes at once. -/
theorem witness_StreamingEqualsOneFinish : let s := session .encrypt .cbc .pkcs7
    s.Inv ∧ IsOpen s.xf ∧ BlockOperands s.mem ⟨true, 4⟩ 0 16 ⟨true, 5⟩ 0 4 0 1 5 0 ∧ 4 ≠ 5 ∧
      InRange s.mem ⟨true, 4⟩ 16 24 4 (0 + 16 * 1) 24 ∧ InRange s.mem ⟨true, 4⟩ 0 40 4 0 (16 * 1 + 24) ∧
      (let r := exec (.xfBlock ⟨true, 4⟩ 0 16 ⟨true, 5⟩ 0) s;
        isNext r = true ∧ (after r).response = some (.ok 16 []) ∧ isNext (exec (.xfFinal ⟨true, 4⟩ 16 24) (after r)) = true ∧
          isNext (exec (.xfFinal ⟨true, 4⟩ 0 40) s) = true) :=
  ⟨session_inv _ _ _ _ (by decide +kernel), by decide +kernel,
    ⟨inRange_of 40 (by decide +kernel), inRange_of 48 (by decide +kernel), by decide⟩, by decide, inRange_of 40 (by decide +kernel),
    inRange_of 40 (by decide +kernel), by decide +kernel⟩

/-- One buffer: block 0 of buffer 4 written right behind the 8 bytes that remain, which end where the output begins. -/
theorem witness_StreamingEqualsOneFinish_sameBuffer : let s := session .encrypt .ecb .zeros
    s.Inv ∧ IsOpen s.xf ∧ BlockOperands s.mem ⟨true, 4⟩ 0 16 ⟨true, 4⟩ 24 4 0 1 4 24 ∧
      (∀ k, 24 ≤ k → k < 24 + (16 : Word).toNat → k < 0 + 16 * 1 ∨ 0 + 16 * 1 + 8 ≤ k) ∧
      InRange s.mem ⟨true, 4⟩ 16 8 4 (0 + 16 * 1) 8 ∧ InRange s.mem ⟨true, 4⟩ 0 24 4 0 (16 * 1 + 8) ∧
      (let r := exec (.xfBlock ⟨true, 4⟩ 0 16 ⟨true, 4⟩ 24) s;
        isNext r = true ∧ (after r).response = some (.ok 16 []) ∧ isNext (exec (.xfFinal ⟨true, 4⟩ 16 8) (after r)) = true ∧
          isNext (exec (.xfFinal ⟨true, 4⟩ 0 24) s) = true) :=
  ⟨session_inv _ _ _ _ (by decide +kernel), by decide +kernel,
    ⟨inRange_of 40 (by decide +kernel), inRange_of 40 (by decide +kernel), by decide⟩, fun k h _ => .inr (by omega),
    inRange_of 40 (by decide +kernel), inRange_of 40 (by decide +kernel), by decide +kernel⟩

/-- A PKCS7 decrypt session: two blocks of section 2.5 row 14, the second held back, then the third; XF_FINAL ends OK. -/
theorem witness_StreamingEqualsOneFinish_decrypt :
    ciphered.Inv ∧ IsOpen ciphered.xf ∧ ciphered.xf.dir = .decrypt ∧ ciphered.xf.spad = some .pkcs7 ∧
      BlockOperands ciphered.mem ⟨true, 5⟩ 0 32 ⟨true, 6⟩ 0 5 0 2 6 0 ∧ 5 ≠ 6 ∧
      InRange ciphered.mem ⟨true, 5⟩ 32 16 5 (0 + 16 * 2) 16 ∧ InRange ciphered.mem ⟨true, 5⟩ 0 48 5 0 (16 * 2 + 16) ∧
      (let r := exec (.xfBlock ⟨true, 5⟩ 0 32 ⟨true, 6⟩ 0) ciphered;
        isNext r = true ∧ (after r).response = some (.ok 16 []) ∧ (after r).xf.holdValid = true ∧
          (after (exec (.xfFinal ⟨true, 5⟩ 32 16) (after r))).response = some (.ok 24 (count 0x40 24)) ∧
          isNext (exec (.xfFinal ⟨true, 5⟩ 32 16) (after r)) = true ∧ isNext (exec (.xfFinal ⟨true, 5⟩ 0 48) ciphered) = true) :=
  ⟨session_inv .decrypt .cbc .pkcs7 _ (by decide +kernel), by decide +kernel, rfl, rfl,
    ⟨inRange_of 48 (by decide +kernel), inRange_of 48 (by decide +kernel), by decide⟩, by decide, inRange_of 48 (by decide +kernel),
    inRange_of 48 (by decide +kernel), by decide +kernel⟩

/-! ### System commands and reset -/

/-- Registers that exist and numbers beside them that do not; a key loaded and none. -/
theorem witness_RegisterReads : isRegister (0x04 : BitVec 16).toNat ∧ ¬isRegister (0x05 : BitVec 16).toNat ∧
    isRegister (0x10 : BitVec 16).toNat ∧ isRegister (0x1B : BitVec 16).toNat ∧ ¬isRegister (0x1C : BitVec 16).toNat ∧
    isRegister (0x21 : BitVec 16).toNat ∧ ¬isRegister (0x22 : BitVec 16).toNat ∧ isRegister (0x30 : BitVec 16).toNat ∧
    (keyed 8).key.valid = true ∧ host.key.valid = false := by decide +kernel

theorem witness_HashReads : 3 < (4 : BitVec 4).toNat ∧ (0 : BitVec 4).toNat = 0 ∧ (3 : BitVec 4).toNat = 3 ∧
    host.md5.hashValid = false ∧ ({ host with md5 := host.md5.final } : State).md5.hashValid = true :=
  ⟨by decide, by decide, by decide, by decide +kernel, rfl⟩

theorem witness_ResetEventRestoresEveryRegister : ({ host with mode := .ecb, moves := [.reset] } : State).link = [] ∧
    ({ host with mode := .ecb, moves := [.reset] } : State).moves = .reset :: [] := ⟨rfl, rfl⟩

end Sys2Proof.Tests
end

section
/-! Decoding inverts encoding, and what a step does with the words on the link (`30_encoding.md` rules R81 to R93). -/

namespace Sys2Proof

/-! ### The decoder on a command word put together from its fields -/

/-- A command word made of fields has its reserved bits 0, so the opcode map decides. -/
@[simp] theorem decode_mkCw (u o e : BitVec 4) (n : BitVec 16) (rest : List Word) :
    decode (mkCw u o e n :: rest) = decodeRow (mkCw u o e n) rest := by
  simp [decode]

/-! Zero fields are spelled `0#n`, the form `simp` brings the words of `encode` to. -/

@[simp] theorem plain_mkCw (u o : BitVec 4) (rest : List Word) (d : Decoded) :
    plain (mkCw u o 0#4 0#16) rest d = d := by
  simp [plain]

@[simp] theorem withImm_mkCw (u o : BitVec 4) (n : BitVec 16) (rest : List Word) (mk : BitVec 16 → Instr) :
    withImm (mkCw u o 0#4 n) rest mk = takeZ (mk n) rest := by
  simp [withImm]

@[simp] theorem crcSelect_mkCw_crc16 (u o : BitVec 4) (rest : List Word) (crc16 crc32 xcrc : Decoded) :
    crcSelect (mkCw u o 0#4 0#16) rest crc16 crc32 xcrc = crc16 := by
  simp [crcSelect]

@[simp] theorem crcSelect_mkCw_crc32 (u o : BitVec 4) (rest : List Word) (crc16 crc32 xcrc : Decoded) :
    crcSelect (mkCw u o 1#4 0#16) rest crc16 crc32 xcrc = crc32 := by
  simp [crcSelect]

@[simp] theorem crcSelect_mkCw_xcrc (u o : BitVec 4) (rest : List Word) (crc16 crc32 xcrc : Decoded) :
    crcSelect (mkCw u o 2#4 0#16) rest crc16 crc32 xcrc = xcrc := by
  simp [crcSelect]

/-- The round trip of rules R81 to R90, one case for each format: the command word's fields choose the row of
`decodeRow`, and the row's format takes the operand words that `encode` wrote. -/
theorem decode_encode_append (i : Instr) (rest : List Word) : decode (encode i ++ rest) = .command i rest := by
  cases i with
  | rdreg | rdhash | crc16Init | crc32Init | xcrcInit | crc16Final | crc32Final | xcrcFinal | md5Init | md5Final
  | cfgSetmode | cfgSetpad | xfDispose => simp [encode, decodeRow, takeZ]
  | crc16Setinit | crc32Setinit | xcrcSetinit | crc16Setxor | crc32Setxor | xcrcSetxor =>
    simp [encode, decodeRow, takeI]
  | crc16Update | crc32Update | xcrcUpdate | md5Update | xfFinal => simp [encode, decodeRow, takeB]
  | xfBlock => simp [encode, decodeRow, takeT]
  | aesKeyexp => simp [encode, decodeRow, takeK1]
  | xfCreateEnc | xfCreateDec => simp [encode, decodeRow, takeK]
  | aesCipher | aesInvcipher => simp [encode, decodeRow, takeX]

end Sys2Proof

namespace Sys2Proof.Machine

/-! ### The cases of a step -/

theorem step_of_command {s : State} {i : Instr} {rest : List Word} (h : decode s.link = .command i rest) :
    step s = exec i (s.withLink rest) := by
  simp [step, h]

theorem step_of_incomplete {s : State} (h : decode s.link = .incomplete) : step s = hostTurn s := by
  simp [step, h]

theorem step_of_link {s : State} {i : Instr} {rest : List Word} (h : s.link = encode i ++ rest) :
    step s = exec i (s.withLink rest) :=
  step_of_command (h ▸ decode_encode_append i rest)

theorem hostTurn_of_cons {s : State} {m : HostMove} {ms : List HostMove} (h : s.moves = m :: ms) :
    hostTurn s = hostMove (s.withMoves ms) m := by
  simp [hostTurn, h]

theorem hostTurn_of_nil {s : State} (h : s.moves = []) : hostTurn s = .next s := by
  simp [hostTurn, h]

/-- Settles O5: the first clause is the second behind the round trip `decode_encode_append`; the host's clauses are the
two cases of `hostTurn`. -/
theorem stepRunsTheCommandOnTheLink : Obligations.StepRunsTheCommandOnTheLink := by
  unfold Obligations.StepRunsTheCommandOnTheLink
  refine ⟨?_, ?_, ?_, ?_⟩
  · intro s i rest hlink
    exact step_of_link hlink
  · intro s i rest hdecode
    exact step_of_command hdecode
  · intro s m ms hwait hmoves
    rw [step_of_incomplete hwait, hostTurn_of_cons hmoves, State.withMoves]
  · intro s hwait hmoves
    rw [step_of_incomplete hwait, hostTurn_of_nil hmoves]

end Sys2Proof.Machine
end

section
/-! What a completed command does to the registers, said once for the engines, the cipher and the session, and the
invariants of Safety.lean over it (`10_state.md` rules R23 to R38). -/

namespace Sys2Proof.Machine

open Sys2Proof.Spec

/-! ### The operations of a hash engine -/

/-- Operation `op` takes a CRC engine to another (`41_crc.md` rules R130 to R134). -/
inductive CrcEngine.Performs {w : Nat} (emit : BitVec w → List Byte) (e : CrcEngine w) : CrcOp → CrcEngine w → Prop
  | init : e.Performs emit .init e.init
  | setInit (v : BitVec w) : e.Performs emit .setInit (e.setInit v)
  | setXor (v : BitVec w) : e.Performs emit .setXor (e.setXor v)
  | update (step : BitVec w → Byte → BitVec w) (data : List Byte) : e.Performs emit .update (e.update step data)
  | final : e.Performs emit .final (e.final emit)

/-- Operation `op` takes the MD5 engine to another (`42_md5.md` rules R164 to R166). -/
inductive Md5Engine.Performs (e : Md5Engine) : Md5Op → Md5Engine → Prop
  | init : e.Performs .init e.init
  | update (data : List Byte) : e.Performs .update (e.update data)
  | final : e.Performs .final e.final

section
variable {w : Nat} {emit : BitVec w → List Byte} {e e' : CrcEngine w} {op : CrcOp}

theorem CrcEngine.Performs.writes (h : e.Performs emit op e') : crcWrites e e' op := by
  cases h <;> rfl

theorem crcWrites_refl (e : CrcEngine w) (op : CrcOp) : crcWrites e e op := by
  cases op <;> rfl

theorem CrcEngine.Performs.hash_kept (h : e.Performs emit op e') (hop : op ≠ .final) :
    e'.hash = e.hash ∧ e'.hashValid = e.hashValid := by
  cases h with
  | final => exact absurd rfl hop
  | _ => exact ⟨rfl, rfl⟩

theorem CrcEngine.Performs.hashValid_mono (h : e.Performs emit op e') (hv : e.hashValid = true) :
    e'.hashValid = true := by
  cases h with
  | final => rfl
  | _ => exact hv

/-- Every operation keeps the engine's invariant; INIT and SETINIT establish its Idle clause, FINAL its Finalized one. -/
theorem CrcEngine.Performs.inv {n : Nat} (h : e.Performs emit op e') (he : e.Inv n) (hemit : ∀ r, (emit r).length = n) :
    e'.Inv n := by
  obtain ⟨hashLen, noHash, idle, finalized⟩ := he
  cases h with
  | init => exact ⟨hashLen, noHash, fun _ => rfl, nofun⟩
  | setInit v => exact ⟨hashLen, noHash, fun _ => rfl, nofun⟩
  | setXor v => exact ⟨hashLen, noHash, idle, finalized⟩
  | update step data => exact ⟨hashLen, noHash, nofun, nofun⟩
  | final => exact ⟨hemit _, nofun, nofun, fun _ => rfl⟩

end

theorem Md5Engine.Performs.hash_kept {e e' : Md5Engine} {op : Md5Op} (h : e.Performs op e') (hop : op ≠ .final) :
    e'.hash = e.hash ∧ e'.hashValid = e.hashValid := by
  cases h with
  | init => exact ⟨rfl, rfl⟩
  | update data => exact ⟨e.update_hash data, e.update_hashValid data⟩
  | final => exact absurd rfl hop

theorem Md5Engine.Performs.hashValid_mono {e e' : Md5Engine} {op : Md5Op} (h : e.Performs op e')
    (hv : e.hashValid = true) : e'.hashValid = true := by
  cases h with
  | init => exact hv
  | update data => rw [e.update_hashValid, hv]
  | final => rfl

/-- The counter counts bits, eight for a byte (`42_md5.md` rule R168). -/
theorem md5Count_lo_mod (lo hi : Word) (n : Nat) (h : lo.toNat % 8 = 0) : (md5Count lo hi n).1.toNat % 8 = 0 := by
  have hs : n <<< 3 = 8 * n := by rw [Nat.shiftLeft_eq]; omega
  simp only [md5Count, hs, BitVec.toNat_add, BitVec.toNat_ofNat]
  omega

theorem Md5Engine.init_inv {e : Md5Engine} (he : e.Inv) : e.init.Inv where
  bufLen := rfl
  hashLen := he.hashLen
  noHash := he.noHash
  bytes := rfl
  idle _ := ⟨rfl, rfl, rfl, rfl⟩
  finalized := nofun

theorem Md5Engine.buf_withLc (e : Md5Engine) (lc : HashLc) : ({ e with lc := lc } : Md5Engine).buf = e.buf := rfl

theorem Md5Engine.countLo_withLc (e : Md5Engine) (lc : HashLc) :
    ({ e with lc := lc } : Md5Engine).countLo = e.countLo := rfl

theorem Md5Engine.update_buf (e : Md5Engine) (data : List Byte) : (e.update data).buf = (e.core data).buf :=
  Md5Engine.buf_withLc (e.core data) .accumulating

theorem Md5Engine.update_countLo (e : Md5Engine) (data : List Byte) :
    (e.update data).countLo = (md5Count e.countLo e.countHi data.length).1 :=
  (Md5Engine.countLo_withLc (e.core data) .accumulating).trans (e.core_countLo data)

theorem Md5Engine.update_inv {e : Md5Engine} (he : e.Inv) (data : List Byte) : (e.update data).Inv where
  bufLen := by rw [e.update_buf, e.core_buf_length data he.bufLen]
  hashLen := by rw [e.update_hash, he.hashLen]
  noHash := by rw [e.update_hash, e.update_hashValid]; exact he.noHash
  bytes := by rw [e.update_countLo]; exact md5Count_lo_mod _ _ _ he.bytes
  idle := nofun
  finalized := nofun

theorem Md5Engine.final_inv (e : Md5Engine) : e.final.Inv where
  bufLen := rfl
  hashLen := e.digest_length
  noHash := nofun
  bytes := rfl
  idle := nofun
  finalized _ := ⟨rfl, rfl, rfl, rfl, rfl⟩

theorem Md5Engine.Performs.inv {e e' : Md5Engine} {op : Md5Op} (h : e.Performs op e') (he : e.Inv) : e'.Inv := by
  cases h with
  | init => exact e.init_inv he
  | update data => exact e.update_inv he data
  | final => exact e.final_inv

/-! ### The key schedule -/

theorem expandedKey_row_zero (nk : Nat) (key : List Byte) (h : key.length = 4 * nk) (i : Nat) (hi : 4 * (nk + 7) ≤ i) :
    rowAt (expandedKey nk key) i = Quad.zero := by
  have hrows : (expandRows nk (4 * (nk + 7) - nk) nk (keyRows key).reverse).reverse.length ≤ i := by
    rw [List.length_reverse, expandRows_length, List.length_reverse, keyRows_length]; omega
  rw [expandedKey, rowAt, List.getD_append_right _ _ _ _ hrows]
  exact rowAt_replicate _ _

/-- `KeyExpansion` of a key of 4, 6 or 8 words keeps rules R31 and R32. -/
theorem keyExpansion_inv {key : List Byte} (h : key.length = 16 ∨ key.length = 24 ∨ key.length = 32) :
    (keyExpansion key).Inv := by
  have hlen : key.length = 4 * (key.length / 4) := by omega
  have hnk : (BitVec.ofNat 4 (key.length / 4)).toNat = key.length / 4 := by
    rw [BitVec.toNat_ofNat]; omega
  refine ⟨expandedKey_length _ _ hlen (by omega), nofun, fun _ => ?_, fun _ i hi => ?_⟩
  · rcases h with h | h | h <;> simp [keyExpansion, h]
  · refine expandedKey_row_zero _ _ hlen i ?_
    simp only [KeySchedule.rounds, keyExpansion, hnk] at hi
    omega

theorem KeySchedule.cleared_inv : KeySchedule.cleared.Inv :=
  ⟨rfl, fun _ => ⟨rfl, rowAt_replicate _⟩, nofun, nofun⟩

/-! ### The session -/

theorem Session.cleared_inv (keyValid : Bool) : Session.cleared.Inv keyValid :=
  ⟨fun _ => rfl, fun h => absurd rfl h, nofun, fun _ => rfl⟩

theorem Session.create_inv (dir : Dir) (mode : CipherMode) (pad : PaddingMode) (fb : Block) :
    (Session.create dir mode pad fb).Inv true :=
  ⟨nofun, fun _ => ⟨rfl, nofun, nofun⟩, nofun, fun _ => rfl⟩

/-- What XF_BLOCK holds back: what was held before, or a block in a PKCS7 decrypt session (`44_transform.md` rule R231). -/
theorem Session.transform_hold (k : KeySchedule) (x : Session) (l : List Block) :
    ((x.transform k l).1.hold = x.hold ∧ (x.transform k l).1.holdValid = x.holdValid) ∨
    (x.dir = .decrypt ∧ x.spad = some .pkcs7 ∧ (x.transform k l).1.holdValid = true) := by
  unfold Session.transform
  split
  · exact .inl ⟨rfl, rfl⟩
  next hdir hpad =>
    split
    · exact .inl ⟨rfl, rfl⟩
    · exact .inr ⟨hdir, hpad, rfl⟩
  · exact .inl ⟨rfl, rfl⟩

/-- XF_BLOCK keeps the session's invariant: a block is held only where `transform` puts it. -/
theorem Session.transform_inv {v : Bool} {x : Session} (hx : x.Inv v) (hlc : x.lc ≠ .disposed) (k : KeySchedule)
    (l : List Block) : ({ (x.transform k l).1 with lc := .transforming } : Session).Inv v := by
  obtain ⟨hdir, hmode, hpad⟩ := x.transform_fields k l
  obtain ⟨hv, hm, hp⟩ := hx.live hlc
  refine ⟨nofun, fun _ => ⟨hv, hmode ▸ hm, hpad ▸ hp⟩, fun hheld => ?_, fun hnot => ?_⟩ <;>
    rcases x.transform_hold k l with ⟨hhold, hvalid⟩ | ⟨hd, hpk, hvalid⟩
  · obtain ⟨hd, hpk, -⟩ := hx.held (hvalid ▸ hheld)
    exact ⟨hdir.trans hd, hpad.trans hpk, rfl⟩
  · exact ⟨hdir.trans hd, hpad.trans hpk, rfl⟩
  · exact hhold.trans (hx.notHeld (hvalid ▸ hnot))
  · exact absurd (hvalid.symm.trans hnot) nofun

/-- Where XF_FINAL leaves a session (rules R236, R237): Finalized, mode and padding kept; encryption keeps HOLD, which
decryption clears. -/
theorem Session.finish_fields {k : KeySchedule} {x : Session} {data : List Byte} {t : Session × List Byte}
    (h : x.finish k data = .ok t) : t.1.lc = .finalized ∧ t.1.smode = x.smode ∧ t.1.spad = x.spad ∧
      (x.dir = .encrypt ∧ t.1.hold = x.hold ∧ t.1.holdValid = x.holdValid ∨
        t.1.hold = Block.zero ∧ t.1.holdValid = false) := by
  unfold Session.finish at h
  split at h
  next hdir =>
    cases h
    exact ⟨rfl, rfl, rfl, .inl ⟨hdir, rfl, rfl⟩⟩
  next =>
    simp only [Session.finishDecrypt] at h
    split at h
    · split at h
      · cases h
      · cases h; exact ⟨rfl, rfl, rfl, .inr ⟨rfl, rfl⟩⟩
    · cases h; exact ⟨rfl, rfl, rfl, .inr ⟨rfl, rfl⟩⟩

/-- XF_FINAL keeps the session's invariant: no block stays held. -/
theorem Session.finish_inv {v : Bool} {k : KeySchedule} {x : Session} {data : List Byte} {t : Session × List Byte}
    (hx : x.Inv v) (hlc : x.lc ≠ .disposed) (h : x.finish k data = .ok t) : t.1.Inv v := by
  obtain ⟨hfin, hmode, hpad, hhold⟩ := Session.finish_fields h
  obtain ⟨hv, hm, hp⟩ := hx.live hlc
  have hnone : t.1.hold = Block.zero ∧ t.1.holdValid = false := by
    rcases hhold with ⟨hdir, hh, hhv⟩ | hz
    · have hvalid : x.holdValid = false := by
        refine Bool.eq_false_iff.mpr fun hheld => ?_
        have := (hx.held hheld).1
        rw [hdir] at this
        cases this
      exact ⟨hh.trans (hx.notHeld hvalid), hhv.trans hvalid⟩
    · exact hz
  refine ⟨fun hd => ?_, fun _ => ⟨hv, hmode ▸ hm, hpad ▸ hp⟩, fun hheld => ?_, fun _ => hnone.1⟩
  · rw [hfin] at hd; cases hd
  · rw [hnone.2] at hheld; cases hheld

/-! ### What a command that completes does to the registers -/

/-- Command `i` takes the registers and the host memory of `s` to those of `u`. The five operations of a CRC engine are
one case for each engine, and what the checks have established stands as premises. -/
inductive Effect : Instr → State → State → Prop
  | crc16 {i s op e} (hi : crcRole i = some (.crc16, op)) (h : s.crc16.Performs emit16 op e) : Effect i s (s.withCrc16 e)
  | crc32 {i s op e} (hi : crcRole i = some (.crc32, op)) (h : s.crc32.Performs emit32 op e) : Effect i s (s.withCrc32 e)
  | xcrc {i s op e} (hi : crcRole i = some (.xcrc, op)) (h : s.xcrc.Performs emit16 op e) : Effect i s (s.withXcrc e)
  | md5 {i s op e} (hi : md5Role i = some op) (h : s.md5.Performs op e) : Effect i s (s.withMd5 e)
  | rdreg {s n} : Effect (.rdreg n) s s
  | rdhash {s e} : Effect (.rdhash e) s s
  | aesKeyexp {s k key} (hlc : s.xf.lc = .disposed) (hlen : key.length = 16 ∨ key.length = 24 ∨ key.length = 32) :
    Effect (.aesKeyexp k) s (s.withKey (keyExpansion key))
  | aesCipher {s d0 d1 d2 d3} : Effect (.aesCipher d0 d1 d2 d3) s (s.withAesState Block.zero)
  | aesInvcipher {s d0 d1 d2 d3} : Effect (.aesInvcipher d0 d1 d2 d3) s (s.withAesState Block.zero)
  | cfgSetmode {s m v} : Effect (.cfgSetmode m) s (s.withMode v)
  | cfgSetpad {s p v} : Effect (.cfgSetpad p) s (s.withPadding v)
  | xfCreateEnc {s k iv key fb} (hlc : s.xf.lc = .disposed)
    (hlen : key.length = 16 ∨ key.length = 24 ∨ key.length = 32) : Effect (.xfCreateEnc k iv) s
      ((s.withKey (keyExpansion key)).withXf (Session.create .encrypt s.mode s.padding fb))
  | xfCreateDec {s k iv key fb} (hlc : s.xf.lc = .disposed)
    (hlen : key.length = 16 ∨ key.length = 24 ∨ key.length = 32) : Effect (.xfCreateDec k iv) s
      ((s.withKey (keyExpansion key)).withXf (Session.create .decrypt s.mode s.padding fb))
  | xfBlock {s din off cnt dout outOff data h o out m} (hlc : s.xf.lc ≠ .disposed) (hm : s.mem.write h o out = some m) :
    Effect (.xfBlock din off cnt dout outOff) s (((s.withMem m).withXf
      { (s.xf.transform s.key data).1 with lc := .transforming }).withAesState Block.zero)
  | xfFinal {s d off cnt data t} (hlc : s.xf.lc ≠ .disposed) (ht : s.xf.finish s.key data = .ok t) :
    Effect (.xfFinal d off cnt) s ((s.withXf t.1).withAesState Block.zero)
  | xfDispose {s} : Effect .xfDispose s ((s.withKey KeySchedule.cleared).withXf Session.cleared)

theorem keyexpChecks_ok {s : State} {k : Descriptor} {r : Nat × Nat} (h : keyexpChecks s k = .ok r) :
    s.xf.lc = .disposed ∧ (r.2 = 16 ∨ r.2 = 24 ∨ r.2 = 32) := by
  unfold keyexpChecks at h
  split at h
  · cases h
  next hlc =>
    obtain ⟨-, n, -, hn, rfl⟩ := (checkKey_eq_ok_iff s.mem k r).mp h
    exact ⟨not_not.mp hlc, hn⟩

theorem createChecks_ok {s : State} {k iv : Descriptor} {r : (Nat × Nat) × (Nat × Nat)}
    (h : createChecks s k iv = .ok r) : s.xf.lc = .disposed ∧ (r.1.2 = 16 ∨ r.1.2 = 24 ∨ r.1.2 = 32) := by
  unfold createChecks at h
  split at h
  · cases h
  next hlc =>
    obtain ⟨-, -, n, v, -, -, hn, rfl⟩ := (checkKeyIv_eq_ok_iff s.mem k iv r).mp h
    exact ⟨not_not.mp hlc, hn⟩

theorem openSession_ok {x : Session} {u : Unit} (h : openSession x = .ok u) : x.lc ≠ .disposed := by
  intro hlc
  simp [openSession, hlc] at h

theorem blockChecks_ok {s : State} {din dout : Descriptor} {off cnt outOff : Word} {r : Span × Nat × Nat}
    (h : blockChecks s din off cnt dout outOff = .ok r) : s.xf.lc ≠ .disposed := by
  unfold blockChecks at h
  split at h
  · cases h
  next hopen => exact openSession_ok hopen

theorem finalChecks_ok {s : State} {d : Descriptor} {off cnt : Word} {r : Span}
    (h : finalChecks s d off cnt = .ok r) : s.xf.lc ≠ .disposed := by
  unfold finalChecks at h
  split at h
  · cases h
  next hopen => exact openSession_ok hopen

/-- Every command that completes has one of these effects. -/
theorem Completes.effect {i : Instr} {s u : State} {v : Word} {out : List Byte} (h : Completes i s v out u) :
    Effect i s u := by
  cases h with
  | rdreg => exact .rdreg
  | rdhash => exact .rdhash
  | crc16Init => exact .crc16 rfl .init
  | crc32Init => exact .crc32 rfl .init
  | xcrcInit => exact .xcrc rfl .init
  | crc16Setinit => exact .crc16 rfl (.setInit _)
  | crc32Setinit => exact .crc32 rfl (.setInit _)
  | xcrcSetinit => exact .xcrc rfl (.setInit _)
  | crc16Setxor => exact .crc16 rfl (.setXor _)
  | crc32Setxor => exact .crc32 rfl (.setXor _)
  | xcrcSetxor => exact .xcrc rfl (.setXor _)
  | crc16Update => exact .crc16 rfl (.update _ _)
  | crc32Update => exact .crc32 rfl (.update _ _)
  | xcrcUpdate => exact .xcrc rfl (.update _ _)
  | crc16Final => exact .crc16 rfl .final
  | crc32Final => exact .crc32 rfl .final
  | xcrcFinal => exact .xcrc rfl .final
  | md5Init => exact .md5 rfl .init
  | md5Update => exact .md5 rfl (.update _)
  | md5Final => exact .md5 rfl .final
  | aesKeyexp hc =>
    obtain ⟨hlc, hlen⟩ := keyexpChecks_ok hc
    exact .aesKeyexp hlc (by rwa [Memory.bytes_length])
  | aesCipher => exact .aesCipher
  | aesInvcipher => exact .aesInvcipher
  | cfgSetmode => exact .cfgSetmode
  | cfgSetpad => exact .cfgSetpad
  | xfCreateEnc hc =>
    obtain ⟨hlc, hlen⟩ := createChecks_ok hc
    exact .xfCreateEnc hlc (by rwa [Memory.bytes_length])
  | xfCreateDec hc =>
    obtain ⟨hlc, hlen⟩ := createChecks_ok hc
    exact .xfCreateDec hlc (by rwa [Memory.bytes_length])
  | xfBlock hc ht hm =>
    subst ht
    exact .xfBlock (blockChecks_ok hc) hm
  | xfFinal hc ht => exact .xfFinal (finalChecks_ok hc) ht
  | xfDispose => exact .xfDispose

/-- The next state of a command, its response apart: unchanged (an error) or as its effect says. -/
theorem exec_effect {i : Instr} {s t : State} (h : exec i s = .next t) :
    ∃ u r, t = u.withResponse r ∧ (u = s ∨ Effect i s u) := by
  rcases exec_next h with ⟨e, -, rfl⟩ | ⟨v, out, u, hu, rfl⟩
  · exact ⟨s, _, rfl, .inl rfl⟩
  · exact ⟨u, _, rfl, .inr hu.effect⟩

/-! ### The invariant under the writes of one register -/

section
variable {s : State} (h : s.Inv)
include h

theorem State.Inv.withCrc16 {e : CrcEngine 16} (he : e.Inv 2) : (s.withCrc16 e).Inv := { h with crc16 := he }

theorem State.Inv.withCrc32 {e : CrcEngine 32} (he : e.Inv 4) : (s.withCrc32 e).Inv := { h with crc32 := he }

theorem State.Inv.withXcrc {e : CrcEngine 16} (he : e.Inv 2) : (s.withXcrc e).Inv := { h with xcrc := he }

theorem State.Inv.withMd5 {e : Md5Engine} (he : e.Inv) : (s.withMd5 e).Inv := { h with md5 := he }

theorem State.Inv.withKeyXf {k : KeySchedule} {x : Session} (hk : k.Inv) (hx : x.Inv k.valid) :
    ((s.withKey k).withXf x).Inv := { h with key := hk, xf := hx }

theorem State.Inv.withXf {x : Session} (hx : x.Inv s.key.valid) : (s.withXf x).Inv := { h with xf := hx }

/-- A key is loaded where there is no session. -/
theorem State.Inv.withKey {k : KeySchedule} (hlc : s.xf.lc = .disposed) (hk : k.Inv) : (s.withKey k).Inv :=
  { h with key := hk, xf := show s.xf.Inv k.valid from h.xf.disposed hlc ▸ Session.cleared_inv _ }

theorem State.Inv.withAesState_zero : (s.withAesState Block.zero).Inv := { h with aesState := rfl }

theorem State.Inv.withMode (v : CipherMode) : (s.withMode v).Inv := { h with }

theorem State.Inv.withPadding (v : PaddingMode) : (s.withPadding v).Inv := { h with }

theorem State.Inv.withMem {m : Memory} (hm : m.wf) : (s.withMem m).Inv := { h with mem := hm }

theorem State.Inv.withLink (l : List Word) : (s.withLink l).Inv := { h with }

theorem State.Inv.withMoves (l : List HostMove) : (s.withMoves l).Inv := { h with }

theorem State.Inv.withResponse (r : Option Response) : (s.withResponse r).Inv := { h with }

end

/-! ### The invariant at reset and under every step -/

theorem CrcEngine.reset_inv {w : Nat} (init xor : BitVec w) (n : Nat) : (CrcEngine.reset init xor n).Inv n :=
  ⟨List.length_replicate, fun _ => rfl, fun _ => rfl, nofun⟩

theorem Md5Engine.reset_inv : Md5Engine.reset.Inv :=
  ⟨rfl, rfl, fun _ => rfl, rfl, fun _ => ⟨rfl, rfl, rfl, rfl⟩, nofun⟩

theorem State.reset_inv : State.reset.Inv where
  crc16 := CrcEngine.reset_inv _ _ _
  crc32 := CrcEngine.reset_inv _ _ _
  xcrc := CrcEngine.reset_inv _ _ _
  md5 := Md5Engine.reset_inv
  key := KeySchedule.cleared_inv
  aesState := rfl
  xf := Session.cleared_inv _
  mem := reset_mem_wf

theorem resetBlock_inv {s : State} (hm : s.mem.wf) : (resetBlock s).Inv := { State.reset_inv with mem := hm }

/-- Every effect of a command keeps the invariant. -/
theorem Effect.inv {i : Instr} {s u : State} (h : Effect i s u) (hs : s.Inv) : u.Inv := by
  cases h with
  | crc16 _ h => exact hs.withCrc16 (h.inv hs.crc16 emit16_length)
  | crc32 _ h => exact hs.withCrc32 (h.inv hs.crc32 emit32_length)
  | xcrc _ h => exact hs.withXcrc (h.inv hs.xcrc emit16_length)
  | md5 _ h => exact hs.withMd5 (h.inv hs.md5)
  | rdreg => exact hs
  | rdhash => exact hs
  | aesKeyexp hlc hlen => exact hs.withKey hlc (keyExpansion_inv hlen)
  | aesCipher => exact hs.withAesState_zero
  | aesInvcipher => exact hs.withAesState_zero
  | cfgSetmode => exact hs.withMode _
  | cfgSetpad => exact hs.withPadding _
  | xfCreateEnc _ hlen => exact hs.withKeyXf (keyExpansion_inv hlen) (Session.create_inv ..)
  | xfCreateDec _ hlen => exact hs.withKeyXf (keyExpansion_inv hlen) (Session.create_inv ..)
  | xfBlock hlc hm =>
    exact ((hs.withMem (Memory.write_wf hs.mem hm)).withXf (Session.transform_inv hs.xf hlc _ _)).withAesState_zero
  | xfFinal hlc ht => exact (hs.withXf (Session.finish_inv hs.xf hlc ht)).withAesState_zero
  | xfDispose => exact hs.withKeyXf KeySchedule.cleared_inv (Session.cleared_inv _)

theorem exec_inv {i : Instr} {s t : State} (hs : s.Inv) (h : exec i s = .next t) : t.Inv := by
  obtain ⟨u, r, rfl, rfl | hu⟩ := exec_effect h
  · exact hs.withResponse r
  · exact (hu.inv hs).withResponse r

/-- A host action between commands that answers a next state. -/
theorem betweenCommands_eq_next {s t : State} {r : Result} (h : betweenCommands s r = .next t) : r = .next t := by
  unfold betweenCommands at h
  split at h
  · exact h
  · cases h

theorem hostMove_inv {s t : State} {m : HostMove} (hs : s.Inv) (h : hostMove s m = .next t) : t.Inv := by
  cases m with
  | send ws =>
    cases h
    exact hs.withLink _
  | setBuffer b v =>
    have h := betweenCommands_eq_next h
    split at h
    next hlen =>
      cases h
      exact hs.withMem (Memory.put_wf hs.mem _ v b.isLt hlen)
    · cases h
  | dropBuffer b =>
    cases betweenCommands_eq_next h
    exact hs.withMem (Memory.drop_wf hs.mem _)
  | reset =>
    cases betweenCommands_eq_next h
    exact resetBlock_inv hs.mem

theorem hostTurn_inv {s t : State} (hs : s.Inv) (h : hostTurn s = .next t) : t.Inv := by
  cases hmoves : s.moves with
  | nil =>
    cases (hostTurn_of_nil hmoves).symm.trans h
    exact hs
  | cons m ms => exact hostMove_inv (hs.withMoves ms) (hostTurn_of_cons hmoves ▸ h)

/-- Settles O14, by the three cases of a step: the host's turn, a command (its effect on the registers), an illegal
command word. -/
theorem invariantKeptByEveryStep : Obligations.InvariantKeptByEveryStep := by
  unfold Obligations.InvariantKeptByEveryStep
  intro s t hs h
  unfold step at h
  split at h
  · exact exec_inv (hs.withLink _) h
  · cases h
    exact (hs.withLink _).withResponse _
  · exact hostTurn_inv hs h

/-- Settles O13. -/
theorem invariantAtReset : Obligations.InvariantAtReset := State.reset_inv

end Sys2Proof.Machine
end

section
/-! The frames of a command, read off its effect: the key schedule, the hash registers, what the CRC and MD5 commands leave
unchanged (`10_state.md` rules R26, R30, R31, R43). -/

namespace Sys2Proof.Machine

open Sys2Proof.Spec

/-! ### The key schedule -/

/-- The commands that load a key (`10_state.md` rule R31). -/
def LoadsKey (i : Instr) : Prop :=
  (∃ k, i = .aesKeyexp k) ∨ (∃ k v, i = .xfCreateEnc k v) ∨ ∃ k v, i = .xfCreateDec k v

/-- A command keeps the key schedule, loads a key where there is no session, or is XF_DISPOSE. -/
theorem Effect.key_cases {i : Instr} {s u : State} (h : Effect i s u) :
    u.key = s.key ∨ (s.xf.lc = .disposed ∧ LoadsKey i ∧ u.key.valid = true) ∨ (i = .xfDispose ∧ u.key.valid = false) := by
  cases h with
  | aesKeyexp hlc => exact .inr (.inl ⟨hlc, .inl ⟨_, rfl⟩, rfl⟩)
  | xfCreateEnc hlc => exact .inr (.inl ⟨hlc, .inr (.inl ⟨_, _, rfl⟩), rfl⟩)
  | xfCreateDec hlc => exact .inr (.inl ⟨hlc, .inr (.inr ⟨_, _, rfl⟩), rfl⟩)
  | xfDispose => exact .inr (.inr ⟨rfl, rfl⟩)
  | _ => exact .inl rfl

/-- Settles O17, by the three things a command can do to the key schedule. -/
theorem keyScheduleImmutableInASession : Obligations.KeyScheduleImmutableInASession := by
  unfold Obligations.KeyScheduleImmutableInASession
  intro i s t h
  obtain ⟨u, r, rfl, hu⟩ := exec_effect h
  have hcases : u.key = s.key ∨ (s.xf.lc = .disposed ∧ LoadsKey i ∧ u.key.valid = true) ∨
      (i = .xfDispose ∧ u.key.valid = false) := by
    rcases hu with rfl | hu
    · exact .inl rfl
    · exact hu.key_cases
  rw [State.withResponse_key]
  rcases hcases with hkey | ⟨hlc, hloads, hvalid⟩ | ⟨hi, hvalid⟩
  · rw [hkey]
    exact ⟨fun _ _ => rfl, fun h0 h1 => absurd (h0.symm.trans h1) nofun, fun h1 h0 => absurd (h0.symm.trans h1) nofun⟩
  · exact ⟨fun hne => absurd hlc hne, fun _ _ => ⟨hlc, hloads⟩, fun _ h0 => absurd (h0.symm.trans hvalid) nofun⟩
  · exact ⟨fun _ hne => absurd hi hne, fun _ h1 => absurd (hvalid.symm.trans h1) nofun, fun _ _ => hi⟩

/-! ### Which command performs which operation -/

/-- The FINAL command of an engine. -/
def finalOf : CrcVariant → Instr
  | .crc16 => .crc16Final
  | .crc32 => .crc32Final
  | .xcrc => .xcrcFinal

theorem eq_finalOf_of_crcRole {i : Instr} {v : CrcVariant} (h : crcRole i = some (v, .final)) : i = finalOf v := by
  cases i with
  | crc16Final | crc32Final | xcrcFinal => cases h; rfl
  | _ => cases h

theorem eq_md5Final_of_md5Role {i : Instr} (h : md5Role i = some .final) : i = .md5Final := by
  cases i with
  | md5Final => rfl
  | _ => cases h

theorem crcRole_of_md5Role {i : Instr} (h : md5Role i ≠ none) : crcRole i = none := by
  cases i with
  | md5Init | md5Update | md5Final => rfl
  | _ => exact absurd rfl h

/-! ### What a command does to each engine -/

theorem Effect.crc16_cases {i : Instr} {s u : State} (h : Effect i s u) :
    u.crc16 = s.crc16 ∨ ∃ op, crcRole i = some (.crc16, op) ∧ s.crc16.Performs emit16 op u.crc16 := by
  cases h with
  | crc16 hi h => exact .inr ⟨_, hi, h⟩
  | _ => exact .inl rfl

theorem Effect.crc32_cases {i : Instr} {s u : State} (h : Effect i s u) :
    u.crc32 = s.crc32 ∨ ∃ op, crcRole i = some (.crc32, op) ∧ s.crc32.Performs emit32 op u.crc32 := by
  cases h with
  | crc32 hi h => exact .inr ⟨_, hi, h⟩
  | _ => exact .inl rfl

theorem Effect.xcrc_cases {i : Instr} {s u : State} (h : Effect i s u) :
    u.xcrc = s.xcrc ∨ ∃ op, crcRole i = some (.xcrc, op) ∧ s.xcrc.Performs emit16 op u.xcrc := by
  cases h with
  | xcrc hi h => exact .inr ⟨_, hi, h⟩
  | _ => exact .inl rfl

theorem Effect.md5_cases {i : Instr} {s u : State} (h : Effect i s u) :
    u.md5 = s.md5 ∨ ∃ op, md5Role i = some op ∧ s.md5.Performs op u.md5 := by
  cases h with
  | md5 hi h => exact .inr ⟨_, hi, h⟩
  | _ => exact .inl rfl

/-! ### The hash registers -/

/-- A CRC engine's HASH changes only by its FINAL, and a valid hash stays valid. -/
theorem CrcEngine.hash_cases {w : Nat} {emit : BitVec w → List Byte} {e e' : CrcEngine w} {i : Instr} {v : CrcVariant}
    (h : e' = e ∨ ∃ op, crcRole i = some (v, op) ∧ e.Performs emit op e') :
    (i ≠ finalOf v → e'.hash = e.hash ∧ e'.hashValid = e.hashValid) ∧ (e.hashValid = true → e'.hashValid = true) := by
  rcases h with rfl | ⟨op, hi, h⟩
  · exact ⟨fun _ => ⟨rfl, rfl⟩, id⟩
  · exact ⟨fun hne => h.hash_kept fun hop => hne (eq_finalOf_of_crcRole (hop ▸ hi)), h.hashValid_mono⟩

/-- The MD5 engine's HASH changes only by MD5_FINAL, and a valid hash stays valid. -/
theorem Md5Engine.hash_cases {e e' : Md5Engine} {i : Instr} (h : e' = e ∨ ∃ op, md5Role i = some op ∧ e.Performs op e') :
    (i ≠ .md5Final → e'.hash = e.hash ∧ e'.hashValid = e.hashValid) ∧ (e.hashValid = true → e'.hashValid = true) := by
  rcases h with rfl | ⟨op, hi, h⟩
  · exact ⟨fun _ => ⟨rfl, rfl⟩, id⟩
  · exact ⟨fun hne => h.hash_kept fun hop => hne (eq_md5Final_of_md5Role (hop ▸ hi)), h.hashValid_mono⟩

/-- Settles O21, engine by engine. -/
theorem hashKeptUntilTheNextFinal : Obligations.HashKeptUntilTheNextFinal := by
  unfold Obligations.HashKeptUntilTheNextFinal
  intro i s t h
  obtain ⟨u, r, rfl, rfl | hu⟩ := exec_effect h
  · exact ⟨fun _ => ⟨rfl, rfl⟩, fun _ => ⟨rfl, rfl⟩, fun _ => ⟨rfl, rfl⟩, fun _ => ⟨rfl, rfl⟩, id, id, id, id⟩
  · obtain ⟨kept16, mono16⟩ := CrcEngine.hash_cases hu.crc16_cases
    obtain ⟨kept32, mono32⟩ := CrcEngine.hash_cases hu.crc32_cases
    obtain ⟨keptX, monoX⟩ := CrcEngine.hash_cases hu.xcrc_cases
    obtain ⟨kept5, mono5⟩ := Md5Engine.hash_cases hu.md5_cases
    exact ⟨kept16, kept32, keptX, kept5, mono16, mono32, monoX, mono5⟩

/-! ### Frames of the engine commands -/

/-- A CRC command's effect is an operation on its own engine. -/
theorem Effect.of_crcRole {i : Instr} {s u : State} {v : CrcVariant} {op : CrcOp} (h : Effect i s u)
    (hi : crcRole i = some (v, op)) :
    (v = .crc16 ∧ ∃ e, s.crc16.Performs emit16 op e ∧ u = s.withCrc16 e) ∨
    (v = .crc32 ∧ ∃ e, s.crc32.Performs emit32 op e ∧ u = s.withCrc32 e) ∨
    (v = .xcrc ∧ ∃ e, s.xcrc.Performs emit16 op e ∧ u = s.withXcrc e) := by
  cases h with
  | crc16 hi' h => cases hi'.symm.trans hi; exact .inl ⟨rfl, _, h, rfl⟩
  | crc32 hi' h => cases hi'.symm.trans hi; exact .inr (.inl ⟨rfl, _, h, rfl⟩)
  | xcrc hi' h => cases hi'.symm.trans hi; exact .inr (.inr ⟨rfl, _, h, rfl⟩)
  | md5 hm =>
    have hnone := crcRole_of_md5Role (Option.ne_none_iff_exists'.mpr ⟨_, hm⟩)
    cases hnone.symm.trans hi
  | _ => cases hi

/-- Settles O22: an error changes the response only, and otherwise one engine is written as its operation says. -/
theorem crcCommandFrames : Obligations.CrcCommandFrames := by
  unfold Obligations.CrcCommandFrames
  intro i s t v op hi h
  obtain ⟨u, r, rfl, rfl | hu⟩ := exec_effect h
  · exact ⟨fun _ => ⟨rfl, crcWrites_refl _ op⟩, fun _ => ⟨rfl, crcWrites_refl _ op⟩, fun _ => ⟨rfl, crcWrites_refl _ op⟩,
      fun _ _ => rfl⟩
  · rcases hu.of_crcRole hi with ⟨rfl, e, he, rfl⟩ | ⟨rfl, e, he, rfl⟩ | ⟨rfl, e, he, rfl⟩
    · exact ⟨fun _ => ⟨rfl, he.writes⟩, nofun, nofun, fun _ _ => rfl⟩
    · exact ⟨nofun, fun _ => ⟨rfl, he.writes⟩, nofun, fun _ _ => rfl⟩
    · exact ⟨nofun, nofun, fun _ => ⟨rfl, he.writes⟩, fun _ _ => rfl⟩

/-- An MD5 command's effect is an operation on the MD5 engine. -/
theorem Effect.of_md5Role {i : Instr} {s u : State} (h : Effect i s u) (hi : md5Role i ≠ none) :
    ∃ e, u = s.withMd5 e := by
  have hnone := crcRole_of_md5Role hi
  cases h with
  | md5 => exact ⟨_, rfl⟩
  | crc16 hc | crc32 hc | xcrc hc => cases hnone.symm.trans hc
  | _ => exact absurd rfl hi

/-- Settles O23: the frame is that of `withMd5`, the hash is O21's. -/
theorem md5CommandFrames : Obligations.Md5CommandFrames := by
  unfold Obligations.Md5CommandFrames
  intro i s t hi h
  obtain ⟨-, -, -, hhash, -⟩ := hashKeptUntilTheNextFinal i s t h
  obtain ⟨u, r, rfl, rfl | hu⟩ := exec_effect h
  · exact ⟨rfl, hhash, fun _ _ => rfl⟩
  · obtain ⟨e, rfl⟩ := hu.of_md5Role hi
    exact ⟨rfl, hhash, fun _ _ => rfl⟩

end Sys2Proof.Machine
end

section
/-! The registers RDREG composes and the values after reset (`10_state.md` rules R39, R40, R46). -/

namespace Sys2Proof.Machine

open Sys2Proof.Spec

/-! ### Composed registers as numbers -/

theorem toNat_append_eq_add {k m : Nat} (x : BitVec k) (y : BitVec m) : (x ++ y).toNat = x.toNat * 2 ^ m + y.toNat := by
  rw [BitVec.toNat_append, ← Nat.shiftLeft_add_eq_or_of_lt y.isLt, Nat.shiftLeft_eq]

/-- The fields of XFSTAT at their places (rule R39). -/
theorem xfStat_toNat (x : Session) (k : KeySchedule) : (xfStat x k).toNat =
    x.lc.code.toNat + 4 * x.dir.code.toNat + 8 * x.holdValid.toNat + 16 * k.valid.toNat +
      32 * (smodeCode x.smode).toNat + 256 * (spadCode x.spad).toNat + 2048 * k.nk.toNat := by
  simp only [xfStat, toNat_append_eq_add, BitVec.toNat_ofNat, BitVec.toNat_ofBool]
  omega

theorem keySize_of_valid {k : KeySchedule} (h : k.valid = true) : (keySize k).toNat = 32 * k.nk.toNat := by
  have hlt := k.nk.isLt
  have h32 : (32 : Word).toNat = 32 := rfl
  simp only [keySize, h, if_true, BitVec.toNat_mul, BitVec.toNat_setWidth, h32]
  omega

theorem keySize_of_not_valid {k : KeySchedule} (h : k.valid = false) : keySize k = Config.keysizeReset.toWord := by
  simp only [keySize, h, Bool.false_eq_true, if_false]

theorem KeyBits.toWord_cases (b : KeyBits) : b.toWord.toNat = 128 ∨ b.toWord.toNat = 192 ∨ b.toWord.toNat = 256 := by
  cases b with
  | bits128 => exact .inl rfl
  | bits192 => exact .inr (.inl rfl)
  | bits256 => exact .inr (.inr rfl)

/-! ### RDREG -/

/-- The register numbers of rule R39 are those `registerValue` knows. -/
theorem registerValue_eq_none_iff (s : State) (n : BitVec 16) : registerValue s n = none ↔ ¬isRegister n.toNat := by
  unfold registerValue
  split <;> simp only [reduceCtorEq, false_iff, true_iff, isRegister, imp_false] at * <;> omega

/-- Equal numbers, equal registers. -/
theorem registerValue_of_toNat {s : State} {n k : BitVec 16} {v x : Word} (hv : registerValue s n = some v)
    (hn : n.toNat = k.toNat) (hk : registerValue s k = some x) : v = x := by
  cases BitVec.eq_of_toNat_eq hn
  exact Option.some.inj (hv.symm.trans hk)

theorem exec_rdreg_of_none {s : State} {n : BitVec 16} (h : registerValue s n = none) :
    exec (.rdreg n) s = .next (failed s .illegal) := by
  simp only [exec, execRdreg, h]
  rfl

theorem exec_rdreg_of_some {s : State} {n : BitVec 16} {v : Word} (h : registerValue s n = some v) :
    exec (.rdreg n) s = .next { s with response := some (.ok v []) } := by
  simp only [exec, execRdreg, h]
  rfl

/-- Settles O57: the value is `registerValue`'s, and each clause evaluates it at one number. -/
theorem registerReads : Obligations.RegisterReads := by
  unfold Obligations.RegisterReads
  intro s n
  refine ⟨fun hn => exec_rdreg_of_none ((registerValue_eq_none_iff s n).mpr hn), fun hn => ?_⟩
  obtain ⟨v, hv⟩ := Option.ne_none_iff_exists'.mp fun hnone => (registerValue_eq_none_iff s n).mp hnone hn
  have value {x : Word} (k : BitVec 16) (hk : registerValue s k = some x) (h : n.toNat = k.toNat) : v = x :=
    registerValue_of_toNat hv h hk
  have number {x : Word} (k : BitVec 16) (hk : registerValue s k = some x) (h : n.toNat = k.toNat) : v.toNat = x.toNat :=
    congrArg BitVec.toNat (value k hk h)
  have word16 {x : BitVec 16} : (x.setWidth 32).toNat = x.toNat := BitVec.toNat_setWidth_of_le (by decide)
  refine ⟨v, exec_rdreg_of_some hv, number 0x00 rfl, ?keyLoaded, ?noKey, ?mode, ?padding, ?xfStat,
    fun h => (number 0x10 rfl h).trans word16, fun h => (number 0x11 rfl h).trans word16, value 0x14 rfl, value 0x15 rfl,
    fun h => (number 0x18 rfl h).trans word16, fun h => (number 0x19 rfl h).trans word16, ?width16, number 0x16 rfl,
    number 0x20 rfl, ?hashStat, value 0x30 rfl⟩
  case keyLoaded => exact fun h hkey => (number 0x01 rfl h).trans (keySize_of_valid hkey)
  case noKey =>
    intro h hkey
    rw [value 0x01 rfl h, keySize_of_not_valid hkey]
    exact KeyBits.toWord_cases _
  case mode =>
    intro h
    rw [value 0x02 rfl h]
    cases s.mode <;> rfl
  case padding =>
    intro h
    rw [value 0x03 rfl h]
    cases s.padding <;> rfl
  case xfStat =>
    intro h
    rw [value 0x04 rfl h, xfStat_toNat]
    congr 6
    · cases s.xf.lc <;> rfl
    · cases s.xf.dir <;> rfl
    · cases s.xf.holdValid <;> rfl
    · cases s.key.valid <;> rfl
    · rcases s.xf.smode with _ | _ | _ <;> rfl
    · rcases s.xf.spad with _ | _ | _ | _ <;> rfl
  case width16 => exact fun h => h.elim (number 0x12 rfl) (number 0x1A rfl)
  case hashStat =>
    intro lc valid hengine
    have hstat : v = hashStat lc valid := by
      rcases hengine with ⟨h, rfl, rfl⟩ | ⟨h, rfl, rfl⟩ | ⟨h, rfl, rfl⟩ | ⟨h, rfl, rfl⟩
      · exact value 0x13 rfl h
      · exact value 0x17 rfl h
      · exact value 0x1B rfl h
      · exact value 0x21 rfl h
    rw [hstat]
    cases lc <;> cases valid <;> rfl

/-! ### Reset -/

/-- Settles O59: the reset state is written out register by register. -/
theorem resetValues : Obligations.ResetValues := ⟨rfl, rfl, rfl, rfl, rfl, rfl, rfl, rfl, rfl⟩

end Sys2Proof.Machine
end

section
/-! Host memory under the commands: only XF_BLOCK writes it, and only the RETVAL bytes from OUTOFF of the output buffer
(`20_memory.md` rules R61, R63, R67; `44_transform.md` rules R232, R233). -/

namespace Sys2Proof.Machine

/-! ### Every command -/

theorem Memory.write_bufs {m m' : Memory} {h i : Nat} {v : List Byte} (e : m.write h i v = some m') :
    m'.bufs = m.bufs := by
  obtain ⟨len, -, -, rfl⟩ := (m.write_eq_some_iff h i v m').mp e
  rfl

/-- A command keeps host memory, or is XF_BLOCK and ends in one MemWrite. -/
theorem Effect.mem_cases {i : Instr} {s u : State} (h : Effect i s u) :
    u.mem = s.mem ∨ ((∃ din inOff inCount dout outOff, i = .xfBlock din inOff inCount dout outOff) ∧
      ∃ b j out, s.mem.write b j out = some u.mem) := by
  cases h with
  | xfBlock hlc hm => exact .inr ⟨⟨_, _, _, _, _, rfl⟩, _, _, _, hm⟩
  | _ => exact .inl rfl

/-- Settles O16: an error changes the response only, and of the effects only XF_BLOCK's writes memory, by a MemWrite,
which leaves the list of buffers as it is. -/
theorem onlyXfBlockWritesHostMemory : Obligations.OnlyXfBlockWritesHostMemory := by
  unfold Obligations.OnlyXfBlockWritesHostMemory
  intro i s t h
  obtain ⟨u, r, rfl, hu⟩ := exec_effect h
  rw [State.withResponse_mem]
  rcases hu with rfl | hu
  · exact ⟨rfl, .inl rfl⟩
  · rcases hu.mem_cases with hkept | ⟨hi, b, j, out, hw⟩
    · exact ⟨congrArg Memory.bufs hkept, .inl hkept⟩
    · exact ⟨Memory.write_bufs hw, .inr hi⟩

/-! ### XF_BLOCK -/

theorem blockChecks_ok_ranges {s : State} {din dout : Descriptor} {off cnt outOff : Word} {r : Span × Nat × Nat}
    (h : blockChecks s din off cnt dout outOff = .ok r) : checkBlockRanges s.mem din off cnt dout outOff = .ok r := by
  unfold blockChecks at h
  split at h
  · cases h
  · exact h

/-- XF_LC, FB, HOLD and HOLD_VALID are the only session registers XF_BLOCK writes (rule R232). -/
theorem Session.transform_frame (k : KeySchedule) (x : Session) (l : List Block) (lc : XfLc) :
    ({ (x.transform k l).1 with lc := lc } : Session) =
      { x with lc := lc, fb := (x.transform k l).1.fb, hold := (x.transform k l).1.hold,
               holdValid := (x.transform k l).1.holdValid } := by
  obtain ⟨hdir, hmode, hpad⟩ := x.transform_fields k l
  rw [← hdir, ← hmode, ← hpad]

/-- RETVAL counts the bytes put out: they are at most INCOUNT (rule R233), so their number fits in a word. -/
theorem Session.transform_output_length (k : KeySchedule) (x : Session) (cnt : Word) (data : List Byte) :
    (bytesOf (x.transform k (blocksOf ((s32 cnt).toNat / 16) data)).2).length =
      (BitVec.ofNat 32 (16 * (x.transform k (blocksOf ((s32 cnt).toNat / 16) data)).2.length)).toNat := by
  have hle := x.transform_length_le k (blocksOf ((s32 cnt).toNat / 16) data)
  have hlt := s32_lt cnt
  rw [blocksOf_length] at hle
  rw [bytesOf_length, BitVec.toNat_ofNat, Nat.mod_eq_of_lt (by omega)]

/-- A successful XF_BLOCK: OUTOFF is not negative, and the session's output, RETVAL bytes, stands at OUTOFF of the output
buffer in the state after it (rules R232, R233). -/
theorem exec_xfBlock_ok {s t : State} {din dout : Descriptor} {inOff inCount outOff v : Word} {out : List Byte}
    (h : exec (.xfBlock din inOff inCount dout outOff) s = .next t) (hr : t.response = some (.ok v out)) :
    0 ≤ outOff.toInt ∧ ∃ l m, (bytesOf (s.xf.transform s.key l).2).length = v.toNat ∧
      s.mem.write dout.handle.toNat outOff.toInt.toNat (bytesOf (s.xf.transform s.key l).2) = some m ∧
      t = (((s.withMem m).withXf { (s.xf.transform s.key l).1 with lc := .transforming }).withAesState
        Block.zero).withResponse (some (.ok v out)) := by
  rcases exec_next h with ⟨e, -, rfl⟩ | ⟨v', out', u, hu, rfl⟩
  · cases hr
  · cases hr
    cases hu with
    | xfBlock hc ht hm =>
      obtain ⟨-, -, nin, nout, -, -, -, -, hout, -, -, -, -, rfl⟩ :=
        (checkBlockRanges_eq_ok_iff ..).mp (blockChecks_ok_ranges hc)
      subst ht
      rw [s32_eq_toInt outOff] at hout hm
      exact ⟨hout, _, _, Session.transform_output_length _ _ _ _, hm, rfl⟩

/-- Settles O25: the registers by `Session.transform_frame`, the memory by the laws of MemWrite. -/
theorem xfBlockFrame : Obligations.XfBlockFrame := by
  unfold Obligations.XfBlockFrame
  intro s t din dout inOff inCount outOff v hwf haes h hr
  obtain ⟨hout, l, m, hlen, hm, rfl⟩ := exec_xfBlock_ok h hr
  refine ⟨?registers, Memory.write_wf hwf hm, Memory.write_bufLen hm, ?bytes⟩
  case registers =>
    rw [Session.transform_frame, ← haes]
    rfl
  case bytes =>
    intro b j hj houtside
    refine (Memory.byte_write hwf hm b j hj).trans (if_neg ?_)
    rintro ⟨hb, hle, hlt⟩
    exact houtside ⟨hb, by omega, by omega⟩

end Sys2Proof.Machine
end

section
/-! The words of the link against the commands: what the decoder reads behind every command word, and the lengths of the
transactions (`30_encoding.md` rules R81 to R93). -/

namespace Sys2Proof

open Sys2Proof.Machine Sys2Proof.Spec

/-! ### The fields of a command word as numbers -/

@[simp] theorem unitOf_mkCw (u o e : BitVec 4) (n : BitVec 16) : unitOf (mkCw u o e n) = u.toNat := by
  rw [unitOf, mkCw_toNat]
  omega

@[simp] theorem opOf_mkCw (u o e : BitVec 4) (n : BitVec 16) : opOf (mkCw u o e n) = o.toNat := by
  rw [opOf, mkCw_toNat]
  omega

@[simp] theorem selOf_mkCw (u o e : BitVec 4) (n : BitVec 16) : selOf (mkCw u o e n) = e.toNat := by
  rw [selOf, mkCw_toNat]
  omega

@[simp] theorem immOf_mkCw (u o e : BitVec 4) (n : BitVec 16) : immOf (mkCw u o e n) = n.toNat := by
  rw [immOf, mkCw_toNat]
  omega

theorem rsvOf_eq_toNat_cwRsv (cw : Word) : rsvOf cw = (cwRsv cw).toNat := by
  rw [rsvOf, cwRsv, BitVec.extractLsb'_toNat, Nat.shiftRight_eq_div_pow]

@[simp] theorem rsvOf_mkCw (u o e : BitVec 4) (n : BitVec 16) : rsvOf (mkCw u o e n) = 0 := by
  rw [rsvOf_eq_toNat_cwRsv, cwRsv_mkCw]
  rfl

/-! ### What the decoder reads

`Reading cw ws d` says what the answer `d` of the decoder means for the words `cw :: ws`. Each function of the decoder
meets it: first the formats, then the checks of SEL and IMM16, then the opcode map. -/

/-- The answer `d` is right for a link that holds `cw :: ws`: an illegal command word of rule R91 goes alone, a command is
read off its encoding, and unfinished words are a proper beginning of some encoding (rule R93). -/
inductive Reading (cw : Word) (ws : List Word) : Decoded → Prop
  | illegal {why} (hcw : IllegalWord cw) : Reading cw ws (.illegal why ws)
  | command {i ops rest} (hi : encode i = cw :: ops) (hws : ws = ops ++ rest) : Reading cw ws (.command i rest)
  | incomplete {i more} (hi : encode i = cw :: (ws ++ more)) (hmore : more ≠ []) : Reading cw ws .incomplete

section Formats

variable {cw : Word}

theorem takeZ_reading {i : Instr} (h : encode i = [cw]) (ws : List Word) : Reading cw ws (takeZ i ws) :=
  .command h rfl

theorem takeI_reading {mk : Word → Instr} (h : ∀ imm, encode (mk imm) = [cw, imm]) :
    ∀ ws, Reading cw ws (takeI mk ws)
  | [] => .incomplete (i := mk 0) (more := [0]) (h 0) (by simp)
  | imm :: _ => .command (h imm) rfl

theorem takeK1_reading {mk : Descriptor → Instr} (h : ∀ k, encode (mk k) = [cw, ofDescriptor k]) :
    ∀ ws, Reading cw ws (takeK1 mk ws)
  | [] => .incomplete (i := mk (toDescriptor 0)) (more := [0]) (by simp [h]) (by simp)
  | k :: _ => .command (ops := [k]) (by simp [h]) rfl

theorem takeK_reading {mk : Descriptor → Descriptor → Instr}
    (h : ∀ k iv, encode (mk k iv) = [cw, ofDescriptor k, ofDescriptor iv]) : ∀ ws, Reading cw ws (takeK mk ws)
  | [] => .incomplete (i := mk (toDescriptor 0) (toDescriptor 0)) (more := [0, 0]) (by simp [h]) (by simp)
  | [k] => .incomplete (i := mk (toDescriptor k) (toDescriptor 0)) (more := [0]) (by simp [h]) (by simp)
  | k :: iv :: _ => .command (ops := [k, iv]) (by simp [h]) rfl

theorem takeB_reading {mk : Descriptor → Word → Word → Instr}
    (h : ∀ d off cnt, encode (mk d off cnt) = [cw, ofDescriptor d, off, cnt]) : ∀ ws, Reading cw ws (takeB mk ws)
  | [] => .incomplete (i := mk (toDescriptor 0) 0 0) (more := [0, 0, 0]) (by simp [h]) (by simp)
  | [d] => .incomplete (i := mk (toDescriptor d) 0 0) (more := [0, 0]) (by simp [h]) (by simp)
  | [d, off] => .incomplete (i := mk (toDescriptor d) off 0) (more := [0]) (by simp [h]) (by simp)
  | d :: off :: cnt :: _ => .command (ops := [d, off, cnt]) (by simp [h]) rfl

theorem takeX_reading {mk : Word → Word → Word → Word → Instr}
    (h : ∀ d0 d1 d2 d3, encode (mk d0 d1 d2 d3) = [cw, d0, d1, d2, d3]) : ∀ ws, Reading cw ws (takeX mk ws)
  | [] => .incomplete (i := mk 0 0 0 0) (more := [0, 0, 0, 0]) (by simp [h]) (by simp)
  | [d0] => .incomplete (i := mk d0 0 0 0) (more := [0, 0, 0]) (by simp [h]) (by simp)
  | [d0, d1] => .incomplete (i := mk d0 d1 0 0) (more := [0, 0]) (by simp [h]) (by simp)
  | [d0, d1, d2] => .incomplete (i := mk d0 d1 d2 0) (more := [0]) (by simp [h]) (by simp)
  | d0 :: d1 :: d2 :: d3 :: _ => .command (ops := [d0, d1, d2, d3]) (by simp [h]) rfl

theorem takeT_reading {mk : Descriptor → Word → Word → Descriptor → Word → Instr}
    (h : ∀ din off cnt dout outOff,
      encode (mk din off cnt dout outOff) = [cw, ofDescriptor din, off, cnt, ofDescriptor dout, outOff]) :
    ∀ ws, Reading cw ws (takeT mk ws)
  | [] =>
    .incomplete (i := mk (toDescriptor 0) 0 0 (toDescriptor 0) 0) (more := [0, 0, 0, 0, 0]) (by simp [h]) (by simp)
  | [d] => .incomplete (i := mk (toDescriptor d) 0 0 (toDescriptor 0) 0) (more := [0, 0, 0, 0]) (by simp [h]) (by simp)
  | [d, off] =>
    .incomplete (i := mk (toDescriptor d) off 0 (toDescriptor 0) 0) (more := [0, 0, 0]) (by simp [h]) (by simp)
  | [d, off, cnt] =>
    .incomplete (i := mk (toDescriptor d) off cnt (toDescriptor 0) 0) (more := [0, 0]) (by simp [h]) (by simp)
  | [d, off, cnt, dout] =>
    .incomplete (i := mk (toDescriptor d) off cnt (toDescriptor dout) 0) (more := [0]) (by simp [h]) (by simp)
  | d :: off :: cnt :: dout :: outOff :: _ => .command (ops := [d, off, cnt, dout, outOff]) (by simp [h]) rfl

end Formats

section Rows

/-! The rows of the opcode map, for a command word of the fields `u`, `o`, `e`, `n`. The numbers `a` and `b` of UNIT and
OP are those of the row; a check that passes puts 0, or the engine's number, in the place of `e` and `n`. -/

variable {u o e : BitVec 4} {n : BitVec 16} {a b : Nat} {ws : List Word}

theorem mkCw_of_toNat (hu : u.toNat = a) (ho : o.toNat = b) : mkCw u o e n = mkCw (.ofNat 4 a) (.ofNat 4 b) e n := by
  rw [← hu, ← ho, BitVec.ofNat_toNat, BitVec.ofNat_toNat, BitVec.setWidth_eq, BitVec.setWidth_eq]

/-- SEL is not 0 where the table shows 0 (rule R91). -/
theorem illegalWord_of_sel (hu : u.toNat ≠ 1) (ho : ¬(u.toNat = 0 ∧ o.toNat = 1)) (he : e ≠ 0) :
    IllegalWord (mkCw u o e n) := by
  refine .inr (.inr (.inr (.inr (.inl ?_))))
  simpa only [unitOf_mkCw, opOf_mkCw, selOf_mkCw] using ⟨hu, ho, BitVec.toNat_ne_iff_ne.mpr he⟩

/-- IMM16 is not 0 in a command that does not use it (rule R91). -/
theorem illegalWord_of_imm (h0 : ¬(u.toNat = 0 ∧ o.toNat = 0)) (h4 : ¬(u.toNat = 4 ∧ o.toNat ≤ 1)) (hn : n ≠ 0) :
    IllegalWord (mkCw u o e n) := by
  refine .inr (.inr (.inr (.inr (.inr (.inr (.inl ?_))))))
  simpa only [unitOf_mkCw, opOf_mkCw, immOf_mkCw] using ⟨h0, h4, BitVec.toNat_ne_iff_ne.mpr hn⟩

theorem plain_reading {d : Decoded} (hu : u.toNat = a) (ho : o.toNat = b)
    (h : Reading (mkCw (.ofNat 4 a) (.ofNat 4 b) 0 0) ws d)
    (hrow : a ≠ 1 ∧ ¬(a = 0 ∧ b ≤ 1) ∧ ¬(a = 4 ∧ b ≤ 1) := by decide) :
    Reading (mkCw u o e n) ws (plain (mkCw u o e n) ws d) := by
  unfold plain
  split_ifs with he hn
  · exact .illegal (illegalWord_of_sel (by omega) (by omega) (by simpa using he))
  · exact .illegal (illegalWord_of_imm (by omega) (by omega) (by simpa using hn))
  · obtain rfl : e = 0 := by simpa using he
    obtain rfl : n = 0 := by simpa using hn
    rwa [mkCw_of_toNat hu ho]

theorem withImm_reading {mk : BitVec 16 → Instr} (hu : u.toNat = a) (ho : o.toNat = b)
    (h : ∀ m, encode (mk m) = [mkCw (.ofNat 4 a) (.ofNat 4 b) 0 m]) (hrow : a ≠ 1 ∧ ¬(a = 0 ∧ b = 1) := by decide) :
    Reading (mkCw u o e n) ws (withImm (mkCw u o e n) ws mk) := by
  unfold withImm
  split_ifs with he
  · exact .illegal (illegalWord_of_sel (by omega) (by omega) (by simpa using he))
  · obtain rfl : e = 0 := by simpa using he
    rw [cwImm16_mkCw, mkCw_of_toNat hu ho]
    exact takeZ_reading (h n) ws

theorem rdhash_reading (hu : u.toNat = 0) (ho : o.toNat = 1) : Reading (mkCw u o e n) ws
    (if cwImm16 (mkCw u o e n) ≠ 0 then .illegal .immNonzero ws else takeZ (.rdhash (cwSel (mkCw u o e n))) ws) := by
  split_ifs with hn
  · exact .illegal (illegalWord_of_imm (by omega) (by omega) (by simpa using hn))
  · obtain rfl : n = 0 := by simpa using hn
    rw [cwSel_mkCw, mkCw_of_toNat hu ho]
    exact takeZ_reading rfl ws

theorem crcSelect_reading {d0 d1 d2 : Decoded} (hu : u.toNat = 1) (ho : o.toNat = b)
    (h0 : Reading (mkCw 1 (.ofNat 4 b) 0 0) ws d0) (h1 : Reading (mkCw 1 (.ofNat 4 b) 1 0) ws d1)
    (h2 : Reading (mkCw 1 (.ofNat 4 b) 2 0) ws d2) :
    Reading (mkCw u o e n) ws (crcSelect (mkCw u o e n) ws d0 d1 d2) := by
  unfold crcSelect
  split_ifs with hn
  · exact .illegal (illegalWord_of_imm (by omega) (by omega) (by simpa using hn))
  · obtain rfl : n = 0 := by simpa using hn
    rw [cwSel_mkCw, mkCw_of_toNat hu ho]
    split
    next he =>
      obtain rfl : e = 0 := BitVec.eq_of_toNat_eq he
      exact h0
    next he =>
      obtain rfl : e = 1 := BitVec.eq_of_toNat_eq he
      exact h1
    next he =>
      obtain rfl : e = 2 := BitVec.eq_of_toNat_eq he
      exact h2
    next he0 he1 he2 =>
      refine .illegal (.inr (.inr (.inl ?_)))
      rw [unitOf_mkCw, selOf_mkCw]
      have hne : e.toNat ≠ 0 ∧ e.toNat ≠ 1 ∧ e.toNat ≠ 2 := ⟨he0, he1, he2⟩
      exact ⟨rfl, by omega⟩

/-- The opcode map, row by row (rule R90). -/
theorem decodeRow_reading (u o e : BitVec 4) (n : BitVec 16) (ws : List Word) :
    Reading (mkCw u o e n) ws (decodeRow (mkCw u o e n) ws) := by
  unfold decodeRow
  rw [cwUnit_mkCw, cwOp_mkCw]
  split
  next hu ho => exact withImm_reading hu ho fun _ => rfl
  next hu ho => exact rdhash_reading hu ho
  next hu ho => exact crcSelect_reading hu ho (takeZ_reading rfl ws) (takeZ_reading rfl ws) (takeZ_reading rfl ws)
  next hu ho =>
    exact crcSelect_reading hu ho (takeI_reading (fun _ => rfl) ws) (takeI_reading (fun _ => rfl) ws)
      (takeI_reading (fun _ => rfl) ws)
  next hu ho =>
    exact crcSelect_reading hu ho (takeI_reading (fun _ => rfl) ws) (takeI_reading (fun _ => rfl) ws)
      (takeI_reading (fun _ => rfl) ws)
  next hu ho =>
    exact crcSelect_reading hu ho (takeB_reading (fun _ _ _ => rfl) ws) (takeB_reading (fun _ _ _ => rfl) ws)
      (takeB_reading (fun _ _ _ => rfl) ws)
  next hu ho => exact crcSelect_reading hu ho (takeZ_reading rfl ws) (takeZ_reading rfl ws) (takeZ_reading rfl ws)
  next hu ho => exact plain_reading hu ho (takeZ_reading rfl ws)
  next hu ho => exact plain_reading hu ho (takeB_reading (fun _ _ _ => rfl) ws)
  next hu ho => exact plain_reading hu ho (takeZ_reading rfl ws)
  next hu ho => exact plain_reading hu ho (takeK1_reading (fun _ => rfl) ws)
  next hu ho => exact plain_reading hu ho (takeX_reading (fun _ _ _ _ => rfl) ws)
  next hu ho => exact plain_reading hu ho (takeX_reading (fun _ _ _ _ => rfl) ws)
  next hu ho => exact withImm_reading hu ho fun _ => rfl
  next hu ho => exact withImm_reading hu ho fun _ => rfl
  next hu ho => exact plain_reading hu ho (takeK_reading (fun _ _ => rfl) ws)
  next hu ho => exact plain_reading hu ho (takeK_reading (fun _ _ => rfl) ws)
  next hu ho => exact plain_reading hu ho (takeT_reading (fun _ _ _ _ _ => rfl) ws)
  next hu ho => exact plain_reading hu ho (takeB_reading (fun _ _ _ => rfl) ws)
  next hu ho => exact plain_reading hu ho (takeZ_reading rfl ws)
  next =>
    refine .illegal (.inr (.inl ?_))
    rw [unitOf_mkCw, opOf_mkCw]
    simp only [opcodePairs, List.cons_append, List.nil_append, List.mem_cons, Prod.mk.injEq, List.not_mem_nil, or_false,
      not_or, not_and]
    and_intros <;> assumption

end Rows

/-- The decoder reads every link that holds a word as rules R81 to R93 say. -/
theorem decode_reading (cw : Word) (ws : List Word) : Reading cw ws (decode (cw :: ws)) := by
  rw [decode]
  split_ifs with hrsv
  · refine .illegal (.inr (.inr (.inr (.inr (.inr (.inl ?_))))))
    rw [rsvOf_eq_toNat_cwRsv]
    exact BitVec.toNat_ne_iff_ne.mpr hrsv
  · have hcw := mkCw_fields cw (not_not.mp hrsv)
    rw [← hcw]
    exact decodeRow_reading _ _ _ _ ws

theorem decode_eq_illegal {cw : Word} {ws rest : List Word} {why : Illegal} (h : decode (cw :: ws) = .illegal why rest) :
    rest = ws ∧ IllegalWord cw := by
  have hread := decode_reading cw ws
  rw [h] at hread
  cases hread with
  | illegal hcw => exact ⟨rfl, hcw⟩

theorem decode_eq_command {cw : Word} {ws rest : List Word} {i : Instr} (h : decode (cw :: ws) = .command i rest) :
    ∃ ops, encode i = cw :: ops ∧ ws = ops ++ rest := by
  have hread := decode_reading cw ws
  rw [h] at hread
  cases hread with
  | command hi hws => exact ⟨_, hi, hws⟩

theorem decode_eq_incomplete {cw : Word} {ws : List Word} (h : decode (cw :: ws) = .incomplete) :
    ∃ i more, encode i = cw :: (ws ++ more) ∧ more ≠ [] := by
  have hread := decode_reading cw ws
  rw [h] at hread
  cases hread with
  | incomplete hi hmore => exact ⟨_, _, hi, hmore⟩

theorem eq_encode_append_of_decode {ws rest : List Word} {i : Instr} (h : decode ws = .command i rest) :
    ws = encode i ++ rest := by
  cases ws with
  | nil => cases h
  | cons cw ws =>
    obtain ⟨ops, hi, rfl⟩ := decode_eq_command h
    rw [hi, List.cons_append]

/-! ### Lengths of transactions (rule R93) -/

theorem length_encode (i : Instr) : (encode i).length = i.format.words := by
  cases i <;> rfl

/-- The format of UNIT and OP in the table of rule R90; `formatOf_encode` ties it to the encoding. A pair that is not in
the table stands for no command, so its value is free. -/
def formatOf : Nat → Nat → Option Format
  | 0, _ => some .Z
  | 1, 0 => some .Z
  | 1, 1 => some .I
  | 1, 2 => some .I
  | 1, 3 => some .B
  | 1, 4 => some .Z
  | 2, 3 => some .B
  | 2, _ => some .Z
  | 3, 0 => some .K1
  | 3, _ => some .X
  | 4, 2 => some .K
  | 4, 3 => some .K
  | 4, 4 => some .T
  | 4, 5 => some .B
  | 4, _ => some .Z
  | _, _ => none

theorem formatOf_encode {i : Instr} {cw : Word} {ops : List Word} (h : encode i = cw :: ops) :
    formatOf (unitOf cw) (opOf cw) = some i.format := by
  cases i <;>
  · obtain ⟨rfl, -⟩ := List.cons.inj h
    rw [unitOf_mkCw, opOf_mkCw]
    rfl

theorem formatOf_of_decode {cw : Word} {ws rest : List Word} {i : Instr} (h : decode (cw :: ws) = .command i rest) :
    formatOf (unitOf cw) (opOf cw) = some i.format := by
  obtain ⟨ops, hi, -⟩ := decode_eq_command h
  exact formatOf_encode hi

/-! ### The obligations -/

/-- Settles O1: the round trip. -/
theorem decodeOfEncodeIsTheCommand : Obligations.DecodeOfEncodeIsTheCommand := decode_encode_append

/-- Settles O2, read off `decode_reading`. -/
theorem decodedWordsAreTheEncoding : Obligations.DecodedWordsAreTheEncoding := fun _ _ _ => eq_encode_append_of_decode

/-- Settles O3: a command's words are its encoding, whose length is that of the format UNIT and OP choose; the last two
clauses are the other two readings of the decoder. -/
theorem transactionLengthFromUnitAndOp : Obligations.TransactionLengthFromUnitAndOp := by
  unfold Obligations.TransactionLengthFromUnitAndOp
  refine ⟨?length, ?format, by decide, ?illegal, ?unfinished⟩
  case length =>
    intro ws rest i h
    rw [eq_encode_append_of_decode h, List.length_append, length_encode]
  case format =>
    intro cw cw' ws ws' rest rest' i i' hunit hop h h'
    apply Option.some.inj
    calc some i.format = formatOf (unitOf cw) (opOf cw) := (formatOf_of_decode h).symm
      _ = formatOf (unitOf cw') (opOf cw') := by rw [hunit, hop]
      _ = some i'.format := formatOf_of_decode h'
  case illegal =>
    intro cw ws rest why h
    exact (decode_eq_illegal h).1
  case unfinished =>
    intro cw ws h
    obtain ⟨i, more, hi, -⟩ := decode_eq_incomplete h
    refine ⟨more, i, ?_⟩
    rw [List.cons_append, ← hi, ← List.append_nil (encode i)]
    exact decode_encode_append i []

/-- Settles O4: the decoder is run on each of the nine transactions. -/
theorem tableWordsDecode : Obligations.TableWordsDecode := by
  unfold Obligations.TableWordsDecode
  decide

end Sys2Proof
end

section
/-! Bytes in words (`30_encoding.md` rules R87, R88): a sequence of words is the sequence of their bytes, low byte first. -/

namespace Sys2Proof.Machine

theorem getD_wordBytes (x : Word) {k : Nat} (hk : k < 4) : (wordBytes x).getD k 0 = byteOf x k := by
  match k, hk with
  | 0, _ | 1, _ | 2, _ | 3, _ => rfl

/-- Byte k of a sequence of words is byte k mod 4 of word k div 4. -/
theorem getD_encodeAll (ws : List Word) (k : Nat) :
    (encodeAll true ws).getD k 0 = byteOf (ws.getD (k / 4) 0) (k % 4) := by
  induction ws generalizing k with
  | nil => simp [encodeAll, byteOf]
  | cons x ws ih =>
    rcases lt_or_ge k 4 with hk | hk
    · rw [Nat.div_eq_of_lt hk, Nat.mod_eq_of_lt hk, encodeAll, if_pos rfl, List.getD_append _ _ _ _ hk]
      exact getD_wordBytes x hk
    · obtain ⟨j, rfl⟩ := Nat.exists_eq_add_of_le' hk
      rw [Nat.add_mod_right, Nat.add_div_right j (by decide), encodeAll, if_pos rfl, List.getD_append_right _ _ _ _ hk]
      exact ih j

theorem wordOf_toNat (b0 b1 b2 b3 : Byte) :
    (wordOf b0 b1 b2 b3).toNat = b0.toNat + 2 ^ 8 * b1.toNat + 2 ^ 16 * b2.toNat + 2 ^ 24 * b3.toNat := by
  simp only [wordOf, toNat_append_eq_add]
  omega

theorem byteOf_toNat (x : Word) (k : Nat) : (byteOf x k).toNat = x.toNat / 2 ^ (8 * k) % 2 ^ 8 := by
  rw [byteOf, BitVec.extractLsb'_toNat, Nat.shiftRight_eq_div_pow]

theorem wordBytes_wordOf (b0 b1 b2 b3 : Byte) : wordBytes (wordOf b0 b1 b2 b3) = [b0, b1, b2, b3] := by
  have hb0 := b0.isLt
  have hb1 := b1.isLt
  have hb2 := b2.isLt
  have hb3 := b3.isLt
  simp only [wordBytes, List.cons.injEq, and_true, ← BitVec.toNat_inj, byteOf_toNat, wordOf_toNat]
  omega

/-- The packed words have the bytes they were packed from, and zeros in the rest of the last word. -/
theorem encodeAll_packWords : ∀ l : List Byte, ∃ n, encodeAll true (packWords l) = l ++ zeros n
  | [] => ⟨0, rfl⟩
  | [b0] => ⟨3, wordBytes_wordOf b0 0 0 0⟩
  | [b0, b1] => ⟨2, wordBytes_wordOf b0 b1 0 0⟩
  | [b0, b1, b2] => ⟨1, wordBytes_wordOf b0 b1 b2 0⟩
  | b0 :: b1 :: b2 :: b3 :: l => by
    obtain ⟨n, hn⟩ := encodeAll_packWords l
    exact ⟨n, by rw [packWords, encodeAll, if_pos rfl, wordBytes_wordOf, hn]; rfl⟩

theorem length_packWords : ∀ l : List Byte, (packWords l).length = (l.length + 3) / 4
  | [] => rfl
  | [_] | [_, _] | [_, _, _] => by simp [packWords]
  | _ :: _ :: _ :: _ :: l => by
    rw [packWords, List.length_cons, length_packWords l]
    simp only [List.length_cons]
    omega

theorem getD_append_zeros (l : List Byte) (n k : Nat) : (l ++ zeros n).getD k 0 = l.getD k 0 := by
  rcases lt_or_ge k l.length with hk | hk
  · exact List.getD_append _ _ _ _ hk
  · rw [List.getD_append_right _ _ _ _ hk, List.getD_eq_default _ _ hk, zeros, List.getD_eq_getElem?_getD,
      List.getElem?_replicate]
    split <;> rfl

/-- Settles O7: the words of a response have the bytes of the output and zeros behind them, and an inline block has the
bytes of its words. -/
theorem wordsCarryBytesLowByteFirst : Obligations.WordsCarryBytesLowByteFirst := by
  unfold Obligations.WordsCarryBytesLowByteFirst
  constructor
  · intro v out
    refine ⟨packWords out, rfl, length_packWords out, fun k _ => ?_⟩
    obtain ⟨n, hn⟩ := encodeAll_packWords out
    rw [← getD_append_zeros out n, ← hn]
    exact (getD_encodeAll (packWords out) k).symm
  · intro d0 d1 d2 d3
    exact ⟨rfl, fun k _ => getD_encodeAll [d0, d1, d2, d3] k⟩

end Sys2Proof.Machine
end

section
/-! Which transactions are answered ERR_ILLEGAL (`30_encoding.md` rule R91): the commands whose operand values are not
well-formed, and the command words the decoder refuses. What a command raises otherwise is the table of
`60_exceptions.md` rule R263. -/

namespace Sys2Proof.Machine

open Sys2Proof.Spec

/-! ### Operand values of rule R91 -/

theorem registerNumbers_contains_iff (n : BitVec 16) : registerNumbers.contains n = true ↔ isRegister n.toNat := by
  simp only [registerNumbers, List.cons_append, List.nil_append, List.contains_iff_mem, List.mem_cons, List.not_mem_nil,
    or_false, ← BitVec.toNat_inj, BitVec.ofNat_eq_ofNat, BitVec.toNat_ofNat, isRegister]
  omega

theorem isCode_iff (c : BitVec 16) : isCode c = true ↔ 1 ≤ c.toNat ∧ c.toNat ≤ 5 := by
  rw [isCode, Bool.and_eq_true, decide_eq_true_iff, decide_eq_true_iff]

theorem hashOf_eq_none_iff (s : State) (e : BitVec 4) : hashOf s e = none ↔ 3 < e.toNat := by
  unfold hashOf
  split <;> simp only [reduceCtorEq, false_iff, true_iff, imp_false] at * <;> omega

theorem imm16_eq_none_iff (imm : Word) : imm16 imm = none ↔ 2 ^ 16 ≤ imm.toNat := by
  rw [Option.eq_none_iff_forall_ne_some]
  simp only [ne_eq, imm16_eq_some_iff, not_and, ← not_lt]
  exact ⟨fun h hlt => h _ hlt rfl, fun h _ hlt => absurd hlt h⟩

theorem modeOfCode_eq_illegal_iff (m : BitVec 16) : modeOfCode m = .error .illegal ↔ isCode m = false := by
  rw [← Bool.not_eq_true, isCode_iff]
  unfold modeOfCode
  split <;> simp only [reduceCtorEq, imp_false, Except.error.injEq, false_iff, true_iff] at * <;> omega

theorem paddingOfCode_eq_illegal_iff (p : BitVec 16) : paddingOfCode p = .error .illegal ↔ isCode p = false := by
  rw [← Bool.not_eq_true, isCode_iff]
  unfold paddingOfCode
  split <;> simp only [reduceCtorEq, imp_false, Except.error.injEq, false_iff, true_iff] at * <;> omega

/-- A command whose operand values rule R91 forbids is answered ERR_ILLEGAL in every state. -/
theorem exec_of_not_wellFormed {i : Instr} (hi : i.wellFormed = false) (s : State) : exec i s = raise .illegal s := by
  cases i with
  | rdreg n =>
    have hn := mt (registerNumbers_contains_iff n).mpr (Bool.eq_false_iff.mp hi)
    exact exec_rdreg_of_none ((registerValue_eq_none_iff s n).mpr hn)
  | rdhash e =>
    have he : hashOf s e = none := (hashOf_eq_none_iff s e).mpr (by simpa [Instr.wellFormed] using hi)
    simp only [exec, execRdhash, he]
  | crc16Setinit imm | xcrcSetinit imm | crc16Setxor imm | xcrcSetxor imm =>
    have himm : imm16 imm = none := (imm16_eq_none_iff imm).mpr (by simpa [Instr.wellFormed, fits16] using hi)
    simp only [exec, execCrc16Setinit, execXcrcSetinit, execCrc16Setxor, execXcrcSetxor, withImm16, himm]
  | cfgSetmode m => simp only [exec, execCfgSetmode, (modeOfCode_eq_illegal_iff m).mpr hi, orRaise]
  | cfgSetpad p => simp only [exec, execCfgSetpad, (paddingOfCode_eq_illegal_iff p).mpr hi, orRaise]
  | crc32Setinit | crc32Setxor | crc16Init | crc32Init | xcrcInit | crc16Update | crc32Update | xcrcUpdate | crc16Final
  | crc32Final | xcrcFinal | md5Init | md5Update | md5Final | aesKeyexp | aesCipher | aesInvcipher | xfCreateEnc
  | xfCreateDec | xfBlock | xfFinal | xfDispose => cases hi

/-! ### What the checks of a command can raise (rule R263) -/

theorem modeOfCode_error {m : BitVec 16} {e : Err} (h : modeOfCode m = .error e) : e = .notSupported ∨ e = .illegal := by
  unfold modeOfCode at h
  split at h <;> cases h <;> simp

theorem paddingOfCode_error {p : BitVec 16} {e : Err} (h : paddingOfCode p = .error e) :
    e = .notSupported ∨ e = .illegal := by
  unfold paddingOfCode at h
  split at h <;> cases h <;> simp

theorem checkRange_error {m : Memory} {d : Descriptor} {off cnt : Word} {e : Err} (h : checkRange m d off cnt = .error e) :
    e = .arg .null ∨ e = .arg .neg ∨ e = .arg .bounds := by
  unfold checkRange at h
  split at h
  · cases h
    simp
  · split_ifs at h <;> cases h <;> simp

theorem updateChecks_error {lc : HashLc} {m : Memory} {d : Descriptor} {off cnt : Word} {e : Err}
    (h : updateChecks lc m d off cnt = .error e) : e = .arg .null ∨ e = .arg .neg ∨ e = .arg .bounds ∨ e = .sequence := by
  unfold updateChecks at h
  split_ifs at h
  · cases h
    simp
  · have := checkRange_error h
    tauto

theorem checkKeyLength_error {k n : Nat} {e : Err} (h : checkKeyLength k n = .error e) : e = .arg .keylen := by
  unfold checkKeyLength at h
  split_ifs at h
  cases h
  rfl

theorem keyexpChecks_error {s : State} {k : Descriptor} {e : Err} (h : keyexpChecks s k = .error e) :
    e = .arg .null ∨ e = .arg .keylen ∨ e = .sequence := by
  unfold keyexpChecks checkKey at h
  split_ifs at h
  · cases h
    simp
  · split at h
    · cases h
      simp
    · simp [checkKeyLength_error h]

theorem createChecks_error {s : State} {k iv : Descriptor} {e : Err} (h : createChecks s k iv = .error e) :
    e = .arg .null ∨ e = .arg .keylen ∨ e = .sequence := by
  unfold createChecks checkKeyIv at h
  split_ifs at h
  · cases h
    simp
  · split at h
    · split at h
      next hlen =>
        cases h
        simp [checkKeyLength_error hlen]
      · cases h
    · cases h
      simp

theorem openSession_error {x : Session} {e : Err} (h : openSession x = .error e) : e = .disposed ∨ e = .sequence := by
  unfold openSession at h
  split at h <;> cases h <;> simp

theorem blockChecks_error {s : State} {din dout : Descriptor} {inOff inCount outOff : Word} {e : Err}
    (h : blockChecks s din inOff inCount dout outOff = .error e) :
    e = .arg .null ∨ e = .arg .neg ∨ e = .arg .bounds ∨ e = .arg .overlap ∨ e = .length ∨ e = .disposed ∨ e = .sequence := by
  unfold blockChecks at h
  split at h
  next hopen =>
    cases h
    have := openSession_error hopen
    tauto
  · unfold checkBlockRanges at h
    split at h
    · split_ifs at h <;> cases h <;> simp
    · cases h
      simp

theorem finalChecks_error {s : State} {d : Descriptor} {off cnt : Word} {e : Err} (h : finalChecks s d off cnt = .error e) :
    e = .arg .null ∨ e = .arg .neg ∨ e = .arg .bounds ∨ e = .length ∨ e = .disposed ∨ e = .sequence := by
  unfold finalChecks at h
  split at h
  next hopen =>
    cases h
    have := openSession_error hopen
    tauto
  · split at h
    next hrange =>
      cases h
      have := checkRange_error hrange
      tauto
    · split_ifs at h
      cases h
      simp

theorem unpadPkcs7_error {out : List Byte} {e : Err} (h : unpadPkcs7 out = .error e) : e = .padding := by
  unfold unpadPkcs7 at h
  split at h
  · cases h
    rfl
  · split_ifs at h
    cases h
    rfl

theorem finish_error {k : KeySchedule} {x : Session} {data : List Byte} {e : Err} (h : x.finish k data = .error e) :
    e = .padding := by
  unfold Session.finish at h
  split at h
  · cases h
  · simp only [Session.finishDecrypt] at h
    split_ifs at h
    split at h
    next hunpad =>
      cases h
      exact unpadPkcs7_error hunpad
    · cases h

/-- The table of rule R263: what a command raises is in its row, or is ERR_ILLEGAL for an operand value of rule R91. -/
theorem Raises.canRaise_or_illegal {i : Instr} {s : State} {e : Err} (h : Raises i s e) :
    canRaise e i = true ∨ (e = .illegal ∧ i.wellFormed = false) := by
  cases h with
  | rdreg h =>
    refine .inr ⟨rfl, Bool.eq_false_iff.mpr fun hn => ?_⟩
    exact (registerValue_eq_none_iff _ _).mp h ((registerNumbers_contains_iff _).mp hn)
  | rdhashNumber h => exact .inr ⟨rfl, by simpa [Instr.wellFormed] using (hashOf_eq_none_iff _ _).mp h⟩
  | crc16Setinit h | xcrcSetinit h | crc16Setxor h | xcrcSetxor h =>
    exact .inr ⟨rfl, by simpa [Instr.wellFormed, fits16] using (imm16_eq_none_iff _).mp h⟩
  | cfgSetmode h =>
    rcases modeOfCode_error h with rfl | rfl
    · exact .inl rfl
    · exact .inr ⟨rfl, (modeOfCode_eq_illegal_iff _).mp h⟩
  | cfgSetpad h =>
    rcases paddingOfCode_error h with rfl | rfl
    · exact .inl rfl
    · exact .inr ⟨rfl, (paddingOfCode_eq_illegal_iff _).mp h⟩
  | rdhash | crc16Final | crc32Final | xcrcFinal | md5Final | aesCipher | aesInvcipher => exact .inl rfl
  | crc16Update h | crc32Update h | xcrcUpdate h | md5Update h =>
    left
    simpa [canRaise, or_assoc] using updateChecks_error h
  | aesKeyexp h =>
    left
    simpa [canRaise, or_assoc] using keyexpChecks_error h
  | xfCreateEnc h | xfCreateDec h =>
    left
    simpa [canRaise, or_assoc] using createChecks_error h
  | xfBlock h =>
    left
    simpa [canRaise, or_assoc] using blockChecks_error h
  | xfFinal h =>
    left
    have := finalChecks_error h
    simp only [canRaise, Bool.or_eq_true, decide_eq_true_eq]
    tauto
  | xfFinalPadding _ h =>
    left
    simp [canRaise, finish_error h]

theorem canRaise_illegal (i : Instr) : canRaise .illegal i = false := by
  cases i <;> rfl

theorem Raises.not_wellFormed {i : Instr} {s : State} (h : Raises i s .illegal) : i.wellFormed = false := by
  rcases h.canRaise_or_illegal with hrow | ⟨-, hi⟩
  · cases (canRaise_illegal i).symm.trans hrow
  · exact hi

/-! ### Operand values on the link -/

/-- A command word of rule R91 that the decoder takes is the whole transaction of a command with a forbidden value. -/
theorem illegalWord_encode {i : Instr} {cw : Word} {ops : List Word} (hi : encode i = cw :: ops) (hcw : IllegalWord cw) :
    ops = [] ∧ i.wellFormed = false := by
  cases i <;> obtain ⟨rfl, rfl⟩ := List.cons.inj hi
  case rdreg n =>
    have hn : ¬isRegister n.toNat := by simpa [IllegalWord, opcodePairs] using hcw
    exact ⟨rfl, Bool.eq_false_iff.mpr (mt (registerNumbers_contains_iff n).mp hn)⟩
  case rdhash e =>
    have he : 4 ≤ e.toNat := by simpa [IllegalWord, opcodePairs] using hcw
    exact ⟨rfl, decide_eq_false (not_le.mpr he)⟩
  case cfgSetmode m | cfgSetpad m =>
    have hm : m.toNat = 0 ∨ 5 < m.toNat := by simpa [IllegalWord, opcodePairs] using hcw
    exact ⟨rfl, Bool.eq_false_iff.mpr (mt (isCode_iff m).mp (by omega))⟩
  all_goals simp [IllegalWord, opcodePairs] at hcw

/-- A SETINIT or SETXOR of a 16-bit engine has its immediate as its one operand word (rule R83). -/
theorem takesImm16_encode {i : Instr} {cw : Word} {ops : List Word} (hi : encode i = cw :: ops) (hcw : TakesImm16 cw) :
    ∃ imm, ops = [imm] ∧ i.wellFormed = fits16 imm := by
  cases i <;> obtain ⟨rfl, rfl⟩ := List.cons.inj hi
  case crc16Setinit imm | xcrcSetinit imm | crc16Setxor imm | xcrcSetxor imm => exact ⟨imm, rfl, rfl⟩
  all_goals simp [TakesImm16] at hcw

/-- A forbidden operand value stands in the command word, or is the immediate of a 16-bit engine. -/
theorem not_wellFormed_encode {i : Instr} {cw : Word} {ops : List Word} (hi : encode i = cw :: ops)
    (h : i.wellFormed = false) : IllegalWord cw ∨ (TakesImm16 cw ∧ ∃ imm, ops = [imm] ∧ fits16 imm = false) := by
  cases i <;> obtain ⟨rfl, rfl⟩ := List.cons.inj hi
  case rdreg n =>
    have hn : ¬isRegister n.toNat := mt (registerNumbers_contains_iff n).mpr (Bool.eq_false_iff.mp h)
    left
    simpa [IllegalWord, opcodePairs] using hn
  case rdhash e =>
    have he : 4 ≤ e.toNat := not_le.mp (of_decide_eq_false h)
    left
    simpa [IllegalWord, opcodePairs] using he
  case cfgSetmode m | cfgSetpad m =>
    have hm := mt (isCode_iff m).mpr (Bool.eq_false_iff.mp h)
    have hm' : m.toNat = 0 ∨ 5 < m.toNat := by omega
    left
    simpa [IllegalWord, opcodePairs] using hm'
  case crc16Setinit imm | xcrcSetinit imm | crc16Setxor imm | xcrcSetxor imm => exact .inr ⟨by simp [TakesImm16], imm, rfl, h⟩
  all_goals cases h

/-! ### The step -/

theorem step_of_illegal {s : State} {why : Illegal} {rest : List Word} (h : decode s.link = .illegal why rest) :
    step s = raise .illegal (s.withLink rest) := by
  simp [step, h]

theorem hostMove_response {s t : State} {m : HostMove} (h : hostMove s m = .next t) : t.response = s.response := by
  cases m with
  | send ws =>
    cases h
    rfl
  | setBuffer b v =>
    have h := betweenCommands_eq_next h
    split at h <;> cases h
    rfl
  | dropBuffer b =>
    cases betweenCommands_eq_next h
    rfl
  | reset =>
    cases betweenCommands_eq_next h
    rfl

theorem hostTurn_response {s t : State} (h : hostTurn s = .next t) : t.response = s.response := by
  cases hmoves : s.moves with
  | nil =>
    cases (hostTurn_of_nil hmoves).symm.trans h
    rfl
  | cons m ms => exact hostMove_response (s := s.withMoves ms) (hostTurn_of_cons hmoves ▸ h)

/-- Settles O6, by what the decoder reads on the link. An illegal word is refused at once; a command is refused exactly for
a forbidden operand value, which its encoding carries in the command word or in the immediate; unfinished words are no
such transaction, and the host's turn leaves the response. -/
theorem exactlyTheIllegalTransactionsAreRefused : Obligations.ExactlyTheIllegalTransactionsAreRefused := by
  unfold Obligations.ExactlyTheIllegalTransactionsAreRefused
  intro s cw ws hlink
  cases hd : decode (cw :: ws) with
  | illegal why rest =>
    obtain ⟨rfl, hcw⟩ := decode_eq_illegal hd
    refine ⟨fun _ => ?_, fun _ _ hlegal => absurd hcw hlegal, fun _ _ _ _ => .inl hcw⟩
    rw [step_of_illegal (hlink ▸ hd)]
    rfl
  | command i rest =>
    obtain ⟨ops, hi, rfl⟩ := decode_eq_command hd
    have hstep : step s = exec i (s.withLink rest) := step_of_command (hlink ▸ hd)
    refine ⟨fun hcw => ?_, fun imm rest' _ himm hws hwide => ?_, fun t _ h ht => ?_⟩
    · obtain ⟨rfl, hbad⟩ := illegalWord_encode hi hcw
      rw [hstep, exec_of_not_wellFormed hbad]
      rfl
    · obtain ⟨imm', rfl, hfits⟩ := takesImm16_encode hi himm
      obtain ⟨rfl, rfl⟩ := List.cons.inj hws
      rw [hstep, exec_of_not_wellFormed (hfits.trans (decide_eq_false (not_lt.mpr hwide)))]
      rfl
    · rcases exec_next (hstep ▸ h) with ⟨e, he, rfl⟩ | ⟨v, out, u, -, rfl⟩
      · cases ht
        refine (not_wellFormed_encode hi he.not_wellFormed).imp_right fun ⟨himm, imm, hops, hwide⟩ => ?_
        exact ⟨himm, imm, rest, by rw [hops]; rfl, not_lt.mp (of_decide_eq_false hwide)⟩
      · cases ht
  | incomplete =>
    obtain ⟨i, more, hi, hmore⟩ := decode_eq_incomplete hd
    have hstep : step s = hostTurn s := step_of_incomplete (hlink ▸ hd)
    refine ⟨fun hcw => ?_, fun imm rest _ himm hws _ => ?_, fun t hs h ht => ?_⟩
    · exact absurd (List.append_eq_nil_iff.mp (illegalWord_encode hi hcw).1).2 hmore
    · obtain ⟨imm', hops, -⟩ := takesImm16_encode hi himm
      rw [hws] at hops
      exact absurd (List.append_eq_nil_iff.mp (List.cons.inj hops).2).2 hmore
    · exact absurd ((hostTurn_response (hstep ▸ h)).symm.trans ht) hs

end Sys2Proof.Machine
end

section
/-! ByteOps (`40_byteops.md` rules R111 to R116): the rotates, and Encode and Decode as inverses in either byte order. -/

namespace Sys2Proof.Machine

/-! ### Rotates -/

/-- The case the model keeps apart, an amount of 0 modulo 32, shifts by 0 and by 32: it is the rotate of the library. -/
theorem rotateLeft_eq (x : Word) (n : Nat) : rotateLeft x n = x.rotateLeft n := by
  rw [rotateLeft, BitVec.rotateLeft_def]
  split
  next h => simp [h, BitVec.ushiftRight_eq_zero]
  next => rfl

theorem rotateRight_eq (x : Word) (n : Nat) : rotateRight x n = x.rotateRight n := by
  rw [rotateRight, BitVec.rotateRight_def]
  split
  next h => simp [h]
  next => rfl

@[simp] theorem rotateLeft_zero (x : Word) : rotateLeft x 0 = x := rfl

@[simp] theorem rotateRight_zero (x : Word) : rotateRight x 0 = x := rfl

/-- Bit `i` moves to `i + n`, or wraps around to `i + n - 32`. -/
theorem getLsbD_rotateLeft_add_mod (x : Word) {n i : Nat} (hn : n < 32) (hi : i < 32) :
    (rotateLeft x n).getLsbD ((i + n) % 32) = x.getLsbD i := by
  rw [rotateLeft_eq, BitVec.getLsbD_rotateLeft, Nat.mod_eq_of_lt hn]
  rcases lt_or_ge (i + n) 32 with h | h
  · rw [Nat.mod_eq_of_lt h]
    simp [h]
  · have hwrap : (i + n) % 32 = i + n - 32 := by omega
    have hlow : i + n - 32 < n := by omega
    have hback : 32 - n + (i + n - 32) = i := by omega
    rw [hwrap, decide_eq_true hlow, cond_true, hback]

/-- The two rotates by complementary amounts take the same two shifts, in the other order. -/
theorem rotateRight_eq_rotateLeft (x : Word) {n : Nat} (hn : n < 32) : rotateRight x n = rotateLeft x ((32 - n) % 32) := by
  rcases Nat.eq_zero_or_pos n with rfl | hpos
  · rfl
  · have hlt : 32 - n < 32 := by omega
    rw [rotateRight_eq, rotateLeft_eq, BitVec.rotateRight_def, BitVec.rotateLeft_def, Nat.mod_mod, Nat.mod_eq_of_lt hn,
      Nat.mod_eq_of_lt hlt, Nat.sub_sub_self hn.le, BitVec.or_comm]

/-- Settles O34, bit by bit for the left rotate; the right rotate is its mirror image. -/
theorem rotatesMoveBits : Obligations.RotatesMoveBits := by
  unfold Obligations.RotatesMoveBits
  intro x n hn
  have hn : n < 32 := Nat.lt_succ_of_le hn
  exact ⟨fun _ hi => getLsbD_rotateLeft_add_mod x hn hi, rotateLeft_zero x,
    rotateRight_zero x, rotateRight_eq_rotateLeft x hn⟩

/-! ### One word and its four bytes -/

theorem wordOf_byteOf (x : Word) : wordOf (byteOf x 0) (byteOf x 1) (byteOf x 2) (byteOf x 3) = x := by
  have hx := x.isLt
  simp only [← BitVec.toNat_inj, wordOf_toNat, byteOf_toNat]
  omega

/-! ### Sequences of words and bytes -/

@[simp] theorem length_encodeAll (little : Bool) (ws : List Word) : (encodeAll little ws).length = 4 * ws.length := by
  induction ws with
  | nil => rfl
  | cons x ws ih =>
    have hword : (if little then wordBytes x else (wordBytes x).reverse).length = 4 := by cases little <;> rfl
    rw [encodeAll, List.length_append, hword, ih, List.length_cons]
    omega

@[simp] theorem length_decodeAll (little : Bool) : ∀ bs : List Byte, (decodeAll little bs).length = bs.length / 4
  | [] => rfl
  | [_] | [_, _] | [_, _, _] => by simp [decodeAll]
  | _ :: _ :: _ :: _ :: bs => by
    rw [decodeAll, List.length_cons, length_decodeAll little bs]
    exact (Nat.add_div_right bs.length (by decide)).symm

theorem decodeAll_encodeAll (little : Bool) (ws : List Word) : decodeAll little (encodeAll little ws) = ws := by
  induction ws with
  | nil => rfl
  | cons x ws ih => cases little <;> simp [encodeAll, wordBytes, decodeAll, wordOf_byteOf, ih]

theorem encodeAll_decodeAll (little : Bool) :
    ∀ {bs : List Byte}, bs.length % 4 = 0 → encodeAll little (decodeAll little bs) = bs
  | [], _ => rfl
  | b0 :: b1 :: b2 :: b3 :: bs, h => by
    have ih := encodeAll_decodeAll little ((Nat.add_mod_right bs.length 4).symm.trans h)
    cases little <;> simp [decodeAll, encodeAll, wordBytes_wordOf, ih]

/-! ### `Encode` and `Decode` with a length -/

theorem encodeWords_eq_some {ws : List Word} {len : Nat} (hlen : len % 4 = 0) (hws : len / 4 ≤ ws.length) (little : Bool) :
    encodeWords ws len little = some (encodeAll little (ws.take (len / 4))) :=
  if_pos ⟨hlen, hws⟩

theorem decodeWords_eq_some {bs : List Byte} {len : Nat} (hlen : len % 4 = 0) (hbs : len ≤ bs.length) (little : Bool) :
    decodeWords bs len little = some (decodeAll little (bs.take len)) :=
  if_pos ⟨hlen, hbs⟩

theorem encodeWords_eq_none {len : Nat} (hlen : len % 4 ≠ 0) (ws : List Word) (little : Bool) :
    encodeWords ws len little = none :=
  if_neg fun h => hlen h.1

theorem decodeWords_eq_none {len : Nat} (hlen : len % 4 ≠ 0) (bs : List Byte) (little : Bool) :
    decodeWords bs len little = none :=
  if_neg fun h => hlen h.1

/-- Settles O35, by the inverses on whole sequences: the lengths say that nothing is cut off between the two. -/
theorem encodeAndDecodeAreInverse : Obligations.EncodeAndDecodeAreInverse := by
  unfold Obligations.EncodeAndDecodeAreInverse
  intro little len ws bs
  refine ⟨fun hlen hws => ?_, fun hlen hbs => ?_,
    fun hlen => ⟨encodeWords_eq_none hlen ws little, decodeWords_eq_none hlen bs little⟩⟩
  · have hbytes : (encodeAll little ws).length = len := by
      rw [length_encodeAll, hws, Nat.mul_div_cancel' (Nat.dvd_of_mod_eq_zero hlen)]
    refine ⟨encodeAll little ws, ?_, hbytes, ?_⟩
    · rw [encodeWords_eq_some hlen hws.ge, List.take_of_length_le hws.le]
    · rw [decodeWords_eq_some hlen hbytes.ge, List.take_of_length_le hbytes.le, decodeAll_encodeAll]
  · have hbytes : (bs.take len).length = len := List.length_take_of_le hbs
    have hwords : (decodeAll little (bs.take len)).length = len / 4 := by rw [length_decodeAll, hbytes]
    refine ⟨decodeAll little (bs.take len), decodeWords_eq_some hlen hbs little, hwords, ?_⟩
    rw [encodeWords_eq_some hlen hwords.ge, List.take_of_length_le hwords.le, encodeAll_decodeAll little (hbytes.symm ▸ hlen)]

end Sys2Proof.Machine
end

section
/-! The CRC engines (`41_crc.md`): the tables against their generating formulas, the engines' step per byte against the
bit-serial registers of rule R124, and the effect of each command on the whole state. -/

namespace Sys2Proof.Machine

open Sys2Proof.Spec

/-! ### Tables -/

/-- Settles O30, entry by entry on the 256 bytes. -/
theorem crcTablesFollowTheirFormulas : Obligations.CrcTablesFollowTheirFormulas := by
  unfold Obligations.CrcTablesFollowTheirFormulas
  exact forall_byte (by decide +kernel)

/-! ### INIT, SETINIT, SETXOR -/

theorem withImm16_of_lt {imm : Word} (h : imm.toNat < 2 ^ 16) (s : State) (k : BitVec 16 → State) :
    withImm16 imm s k = respond 0 [] (k (BitVec.ofNat 16 imm.toNat)) := by
  have himm := (imm16_eq_some_iff imm (BitVec.ofNat 16 imm.toNat)).mpr ⟨h, BitVec.ofNat_toNat 16 imm⟩
  simp only [withImm16, himm]

theorem withImm16_of_ge {imm : Word} (h : 2 ^ 16 ≤ imm.toNat) (s : State) (k : BitVec 16 → State) :
    withImm16 imm s k = raise .illegal s := by
  simp only [withImm16, (imm16_eq_none_iff imm).mpr h]

/-- Settles O26: the commands without a check by evaluation, those of the 16-bit engines by the two ranges of the
immediate. -/
theorem crcInitAndParameters : Obligations.CrcInitAndParameters := by
  unfold Obligations.CrcInitAndParameters
  intro s imm
  refine ⟨rfl, rfl, rfl, rfl, rfl, fun h => ?_, fun h => ?_⟩
  · exact ⟨withImm16_of_lt h s _, withImm16_of_lt h s _, withImm16_of_lt h s _, withImm16_of_lt h s _⟩
  · exact ⟨withImm16_of_ge h s _, withImm16_of_ge h s _, withImm16_of_ge h s _, withImm16_of_ge h s _⟩

/-! ### FINAL -/

theorem extractLsb'_eq_ofNat_div {w : Nat} (x : BitVec w) (start n : Nat) :
    x.extractLsb' start n = BitVec.ofNat n (x.toNat / 2 ^ start) := by
  rw [← Nat.shiftRight_eq_div_pow]; rfl

theorem emit16_eq_leBytes (r : BitVec 16) : emit16 r = leBytes 2 r.toNat := by
  simp only [emit16, extractLsb'_eq_ofNat_div]; rfl

theorem emit32_eq_reverse_leBytes (r : Word) : emit32 r = (leBytes 4 r.toNat).reverse := by
  simp only [emit32, extractLsb'_eq_ofNat_div]; rfl

section Final

variable {w : Nat} {emit : BitVec w → List Byte} {e : CrcEngine w} {put : CrcEngine w → State} {s : State}

theorem crcFinal_of_finalized (h : e.lc = .finalized) : crcFinal emit e put s = raise .sequence s := if_pos h

theorem crcFinal_of_ne_finalized (h : e.lc ≠ .finalized) :
    crcFinal emit e put s = respondBytes (e.result emit) (put (e.final emit)) := if_neg h

end Final

/-- Settles O28: what is emitted is the number `REG ^ XORVALUE` cut into bytes, in the engine's order. -/
theorem crcFinalEmitsTheResult : Obligations.CrcFinalEmitsTheResult := by
  unfold Obligations.CrcFinalEmitsTheResult
  rintro s x y z rfl rfl rfl
  rw [← emit16_eq_leBytes, ← emit32_eq_reverse_leBytes, ← emit16_eq_leBytes]
  exact ⟨crcFinal_of_ne_finalized, crcFinal_of_ne_finalized, crcFinal_of_ne_finalized,
    crcFinal_of_finalized, crcFinal_of_finalized, crcFinal_of_finalized⟩

/-! ### UPDATE on a range inside its buffer -/

theorem checkRange_of_inRange {m : Memory} {d : Descriptor} {off cnt : Word} {h o n : Nat}
    (hr : InRange m d off cnt h o n) : checkRange m d off cnt = .ok ⟨h, o, n⟩ := by
  obtain ⟨hv, rfl, ho, hn, len, hlen, hle⟩ := hr
  refine (checkRange_eq_ok_iff m d off cnt _).mpr ⟨hv, len, hlen, ?_⟩
  simp only [s32_eq_toInt, ho, hn, Int.toNat_natCast, and_true]
  omega

section Update

variable {w : Nat} {step : BitVec w → Byte → BitVec w} {e : CrcEngine w} {put : CrcEngine w → State} {s t : State}
  {d : Descriptor} {off cnt : Word} {h o n : Nat}

theorem crcUpdate_of_inRange (hr : InRange s.mem d off cnt h o n) (hlc : e.lc ≠ .finalized) :
    crcUpdate step e put d off cnt s = respond 0 [] (put (e.update step (s.mem.bytes h o n))) := by
  have hchecks := (updateChecks_eq_ok_iff e.lc s.mem d off cnt _).mpr ⟨hlc, checkRange_of_inRange hr⟩
  rcases crcUpdate_cases step e put d off cnt s with ⟨err, herr, -⟩ | ⟨r, hok, hrun⟩
  · cases hchecks.symm.trans herr
  · cases hchecks.symm.trans hok
    exact hrun

/-- An UPDATE that succeeds has passed its checks, so the engine was not Finalized. -/
theorem crcUpdate_ok (hr : InRange s.mem d off cnt h o n) (hrun : crcUpdate step e put d off cnt s = .next t)
    (hok : IsOk t) : t = (put (e.update step (s.mem.bytes h o n))).withResponse (some (.ok 0 [])) := by
  rcases crcUpdate_cases step e put d off cnt s with ⟨err, -, hraise⟩ | ⟨r, hchecks, -⟩
  · obtain ⟨v, out, hresp⟩ := hok
    rw [(raise_eq_next err s t).mp (hraise.symm.trans hrun)] at hresp
    cases hresp
  · have hlc := ((updateChecks_eq_ok_iff _ _ _ _ _ _).mp hchecks).1
    exact (respond_eq_next _ _ _ t).mp ((crcUpdate_of_inRange hr hlc).symm.trans hrun)

end Update

/-! ### One step per byte (rules R121, R122, R133) -/

theorem step16_eq (table : Byte → BitVec 16) (r : BitVec 16) (b : Byte) :
    step16 table r b = (r <<< 8) ^^^ table (BitVec.ofNat 8 (r.toNat / 256) ^^^ b) := by
  have hhigh : (r >>> 8).setWidth 8 = BitVec.ofNat 8 (r.toNat / 256) := by
    rw [← BitVec.ofNat_toNat, BitVec.toNat_ushiftRight, Nat.shiftRight_eq_div_pow]
  rw [step16, hhigh]

theorem step32_eq (r : Word) (b : Byte) :
    step32 r b = (r >>> 8) ^^^ tCrc32 (BitVec.ofNat 8 (r.toNat % 256) ^^^ b) := by
  have hlow : r.setWidth 8 = BitVec.ofNat 8 (r.toNat % 256) := by
    rw [← BitVec.toNat_inj, BitVec.toNat_setWidth, BitVec.toNat_ofNat, Nat.mod_mod]
  rw [step32, hlow]

/-- The register after the first `k` bytes of the range from index `o` of buffer `h`, started from `r`. -/
def registerAfter {w : Nat} (step : BitVec w → Byte → BitVec w) (r : BitVec w) (m : Memory) (h o k : Nat) :
    BitVec w :=
  (m.bytes h o k).foldl step r

theorem registerAfter_succ {w : Nat} (step : BitVec w → Byte → BitVec w) (r : BitVec w) (m : Memory) (h o k : Nat) :
    registerAfter step r m h o (k + 1) = step (registerAfter step r m h o k) (m.byte h (o + k)) := by
  rw [registerAfter, Memory.bytes_append, List.foldl_append]
  rfl

/-- Settles O27: the sequence is the register after the first `k` bytes, for every `k`. -/
theorem crcUpdateStepsOncePerByte : Obligations.CrcUpdateStepsOncePerByte := by
  unfold Obligations.CrcUpdateStepsOncePerByte
  intro s d off cnt h o n byteAt hr hbyte
  obtain rfl : byteAt = fun k => s.mem.byte h (o + k) := funext hbyte
  exact ⟨
    fun hlc => ⟨registerAfter (step16 tCrc16) s.crc16.reg s.mem h o, rfl,
      fun k => (registerAfter_succ _ _ _ h o k).trans (step16_eq _ _ _), crcUpdate_of_inRange hr hlc⟩,
    fun hlc => ⟨registerAfter (step16 tXcrc) s.xcrc.reg s.mem h o, rfl,
      fun k => (registerAfter_succ _ _ _ h o k).trans (step16_eq _ _ _), crcUpdate_of_inRange hr hlc⟩,
    fun hlc => ⟨registerAfter step32 s.crc32.reg s.mem h o, rfl,
      fun k => (registerAfter_succ _ _ _ h o k).trans (step32_eq _ _), crcUpdate_of_inRange hr hlc⟩⟩

/-! ### Neighbouring ranges (rule R133) -/

theorem CrcEngine.update_update {w : Nat} (step : BitVec w → Byte → BitVec w) (e : CrcEngine w) (l k : List Byte) :
    (e.update step l).update step k = e.update step (l ++ k) := by
  simp only [CrcEngine.update, List.foldl_append]

/-- On an engine that has taken the `n` bytes before, an UPDATE on the next `n'` bytes ends as one UPDATE on all. -/
theorem crcUpdate_update {w : Nat} {step : BitVec w → Byte → BitVec w} {e : CrcEngine w} {put : CrcEngine w → State}
    {s u : State} {d : Descriptor} {off cnt : Word} {h o n n' : Nat} (hmem : u.mem = s.mem)
    (hr : InRange s.mem d off cnt h (o + n) n') : crcUpdate step (e.update step (s.mem.bytes h o n)) put d off cnt u =
      respond 0 [] (put (e.update step (s.mem.bytes h o (n + n')))) := by
  have hlc : (e.update step (s.mem.bytes h o n)).lc ≠ .finalized := nofun
  rw [crcUpdate_of_inRange (hmem ▸ hr) hlc, hmem, CrcEngine.update_update, ← Memory.bytes_append]

/-- Settles O29: the second UPDATE starts from the register where the first one ended. -/
theorem crcUpdatesCanBeSplit : Obligations.CrcUpdatesCanBeSplit := by
  unfold Obligations.CrcUpdatesCanBeSplit
  intro s d off cnt off' cnt' cnt2 h o n n' hr hr' hr2
  exact ⟨
    fun hlc => ⟨_, _, crcUpdate_of_inRange hr hlc, crcUpdate_update rfl hr', crcUpdate_of_inRange hr2 hlc⟩,
    fun hlc => ⟨_, _, crcUpdate_of_inRange hr hlc, crcUpdate_update rfl hr', crcUpdate_of_inRange hr2 hlc⟩,
    fun hlc => ⟨_, _, crcUpdate_of_inRange hr hlc, crcUpdate_update rfl hr', crcUpdate_of_inRange hr2 hlc⟩⟩

/-! ### Bit-serial registers (rule R124) -/

/-- The feedback of two registers together. -/
theorem feedback_xor {w : Nat} (poly : BitVec w) (x y : Bool) :
    (if x ^^ y then poly else 0) = (if x then poly else 0) ^^^ (if y then poly else 0) := by
  cases x <;> cases y <;> simp

/-! #### Reflected: low bit first -/

section Reflected

variable {w : Nat} (poly : BitVec w)

/-- One bit is linear in the register and the input together. -/
theorem lsbBit_xor (r q : BitVec w) (x y : Bool) :
    lsbBit poly (r ^^^ q) (x ^^ y) = lsbBit poly r x ^^^ lsbBit poly q y := by
  have hbits : ((r ^^^ q).getLsbD 0 ^^ (x ^^ y)) = ((r.getLsbD 0 ^^ x) ^^ (q.getLsbD 0 ^^ y)) := by
    simp only [BitVec.getLsbD_xor, Bool.xor_assoc, Bool.xor_left_comm]
  rw [lsbBit, hbits, feedback_xor, BitVec.ushiftRight_xor_distrib, lsbBit, lsbBit]
  ac_rfl

theorem lsbByte_xor (r q : BitVec w) (b c : Byte) :
    lsbByte poly (r ^^^ q) (b ^^^ c) = lsbByte poly r b ^^^ lsbByte poly q c := by
  simp only [lsbByte, List.foldl_cons, List.foldl_nil, BitVec.getLsbD_xor, lsbBit_xor]

/-- Where the low byte of the register is the input, every bit cancels and the byte is shifted out. -/
theorem lsbByte_of_low {r : BitVec w} {b : Byte} (h : ∀ k, k < 8 → r.getLsbD k = b.getLsbD k) :
    lsbByte poly r b = r >>> 8 := by
  simp [lsbByte, lsbBit, h, ← BitVec.shiftRight_add]

/-- One bit of zero is one step of a table's generating formula. -/
theorem lsbBit_false (r : BitVec w) : lsbBit poly r false = if r.getLsbD 0 then (r >>> 1) ^^^ poly else r >>> 1 := by
  rw [lsbBit, Bool.xor_false]
  split
  · rfl
  · exact BitVec.xor_zero

theorem lsbByte_zero (r : BitVec w) :
    lsbByte poly r 0#8 = eight (fun a => if a.getLsbD 0 then (a >>> 1) ^^^ poly else a >>> 1) r := by
  simp only [← lsbBit_false]
  rfl

/-- The step of a table-driven engine: the register splits into a part whose low byte is the input, which is shifted out,
and the byte `i` that indexes the table. -/
theorem lsbByte_eq (hw : 8 ≤ w) {r : BitVec w} {b i : Byte} (hi : i = r.setWidth 8 ^^^ b) :
    lsbByte poly r b = (r >>> 8) ^^^ lsbByte poly (i.setWidth w) 0#8 := by
  have hlow : ∀ k, k < 8 → (r ^^^ i.setWidth w).getLsbD k = b.getLsbD k := by
    intro k hk
    have hkw : k < w := by omega
    simp [hi, hk, hkw]
  have hout : i.setWidth w >>> 8 = 0#w := by
    ext k
    simp
  calc lsbByte poly r b
      = lsbByte poly (r ^^^ i.setWidth w ^^^ i.setWidth w) (b ^^^ 0#8) := by
        rw [BitVec.xor_assoc, BitVec.xor_self, BitVec.xor_zero, BitVec.xor_zero]
    _ = (r ^^^ i.setWidth w) >>> 8 ^^^ lsbByte poly (i.setWidth w) 0#8 := by rw [lsbByte_xor, lsbByte_of_low poly hlow]
    _ = (r >>> 8) ^^^ lsbByte poly (i.setWidth w) 0#8 := by rw [BitVec.ushiftRight_xor_distrib, hout, BitVec.xor_zero]

end Reflected

/-! #### Unreflected: high bit first -/

section Unreflected

variable (poly : BitVec 16)

/-- One bit is linear in the register and the input together. -/
theorem msbBit_xor (r q : BitVec 16) (x y : Bool) :
    msbBit poly (r ^^^ q) (x ^^ y) = msbBit poly r x ^^^ msbBit poly q y := by
  have hbits : ((r ^^^ q).getLsbD 15 ^^ (x ^^ y)) = ((r.getLsbD 15 ^^ x) ^^ (q.getLsbD 15 ^^ y)) := by
    simp only [BitVec.getLsbD_xor, Bool.xor_assoc, Bool.xor_left_comm]
  rw [msbBit, hbits, feedback_xor, BitVec.shiftLeft_xor_distrib, msbBit, msbBit]
  ac_rfl

theorem msbByte_xor (r q : BitVec 16) (b c : Byte) :
    msbByte poly (r ^^^ q) (b ^^^ c) = msbByte poly r b ^^^ msbByte poly q c := by
  simp only [msbByte, List.foldl_cons, List.foldl_nil, BitVec.getLsbD_xor, msbBit_xor]

/-- Where the high byte of the register is the input, every bit cancels and the byte is shifted out. -/
theorem msbByte_of_high {r : BitVec 16} {b : Byte} (h : ∀ k, k < 8 → b.getLsbD k = r.getLsbD (8 + k)) :
    msbByte poly r b = r <<< 8 := by
  simp [-BitVec.getLsbD_eq_getElem, msbByte, msbBit, h, ← BitVec.shiftLeft_add]

/-- One bit of zero is one step of the table's generating formula. -/
theorem msbBit_false (r : BitVec 16) : msbBit poly r false = if r.getLsbD 15 then (r <<< 1) ^^^ poly else r <<< 1 := by
  rw [msbBit, Bool.xor_false]
  split
  · rfl
  · exact BitVec.xor_zero

theorem msbByte_zero (r : BitVec 16) :
    msbByte poly r 0#8 = eight (fun a => if a.getLsbD 15 then (a <<< 1) ^^^ poly else a <<< 1) r := by
  simp only [← msbBit_false]
  rfl

/-- The step of a table-driven engine, as in `lsbByte_eq`. -/
theorem msbByte_eq {r : BitVec 16} {b i : Byte} (hi : i = (r >>> 8).setWidth 8 ^^^ b) :
    msbByte poly r b = (r <<< 8) ^^^ msbByte poly (i.setWidth 16 <<< 8) 0#8 := by
  have hhigh : ∀ k, k < 8 → b.getLsbD k = (r ^^^ i.setWidth 16 <<< 8).getLsbD (8 + k) := by
    intro k hk
    have hk16 : k < 16 := by omega
    have hk8 : 8 + k < 16 := by omega
    simp [-BitVec.getLsbD_eq_getElem, hi, hk, hk16, hk8]
  have hout : i.setWidth 16 <<< 8 <<< 8 = 0#16 := by
    rw [← BitVec.shiftLeft_add]
    exact BitVec.shiftLeft_eq_zero le_rfl
  calc msbByte poly r b
      = msbByte poly (r ^^^ i.setWidth 16 <<< 8 ^^^ i.setWidth 16 <<< 8) (b ^^^ 0#8) := by
        rw [BitVec.xor_assoc, BitVec.xor_self, BitVec.xor_zero, BitVec.xor_zero]
    _ = (r ^^^ i.setWidth 16 <<< 8) <<< 8 ^^^ msbByte poly (i.setWidth 16 <<< 8) 0#8 := by
        rw [msbByte_xor, msbByte_of_high poly hhigh]
    _ = (r <<< 8) ^^^ msbByte poly (i.setWidth 16 <<< 8) 0#8 := by
        rw [BitVec.shiftLeft_xor_distrib, hout, BitVec.xor_zero]

end Unreflected

/-! #### The byte swap -/

theorem getLsbD_bswap16 (x : BitVec 16) {i : Nat} (hi : i < 16) :
    (bswap16 x).getLsbD i = x.getLsbD (if i < 8 then 8 + i else i - 8) := by
  rw [bswap16, BitVec.getLsbD_or, BitVec.getLsbD_shiftLeft, BitVec.getLsbD_ushiftRight]
  split
  next h => simp [h]
  next h =>
    have hout : x.getLsbD (8 + i) = false := BitVec.getLsbD_of_ge x _ (by omega)
    simp [h, hi, hout]

theorem bswap16_xor (x y : BitVec 16) : bswap16 (x ^^^ y) = bswap16 x ^^^ bswap16 y := by
  refine BitVec.eq_of_getLsbD_eq fun i hi => ?_
  simp only [BitVec.getLsbD_xor, getLsbD_bswap16 _ hi]

theorem bswap16_bswap16 (x : BitVec 16) : bswap16 (bswap16 x) = x := by
  refine BitVec.eq_of_getLsbD_eq fun i hi => ?_
  rw [getLsbD_bswap16 _ hi]
  split
  next h =>
    rw [getLsbD_bswap16 _ (by omega), if_neg (by omega), Nat.add_sub_cancel_left]
  next h =>
    rw [getLsbD_bswap16 _ (by omega), if_pos (by omega), Nat.add_sub_cancel' (by omega)]

/-- The high byte of a register is the low byte of its swap. -/
theorem setWidth_bswap16 (x : BitVec 16) : (bswap16 x).setWidth 8 = (x >>> 8).setWidth 8 := by
  refine BitVec.eq_of_getLsbD_eq fun i hi => ?_
  have hlt : i < 16 := Nat.lt_trans hi (by decide)
  simp only [BitVec.getLsbD_setWidth, getLsbD_bswap16 x hlt, BitVec.getLsbD_ushiftRight, if_pos hi]

/-- Shifting out the high byte of a register is shifting out the low byte of its swap. -/
theorem bswap16_shiftLeft (x : BitVec 16) : bswap16 (x <<< 8) = bswap16 x >>> 8 := by
  refine BitVec.eq_of_getLsbD_eq fun i hi => ?_
  rw [getLsbD_bswap16 _ hi, BitVec.getLsbD_ushiftRight, BitVec.getLsbD_shiftLeft]
  split
  next h =>
    have hlt : 8 + i < 16 := Nat.add_lt_add_left h 8
    rw [getLsbD_bswap16 x hlt]
    simp [hlt]
  next h =>
    have hout : (bswap16 x).getLsbD (8 + i) = false := BitVec.getLsbD_of_ge _ _ (by omega)
    have hlow : i - 8 < 8 := by omega
    simp [hout, hlow]

/-! #### The engines -/

theorem step32_eq_lsbByte (r : Word) (b : Byte) : step32 r b = lsbByte 0xEDB88320 r b := by
  rw [lsbByte_eq _ (by decide) rfl, lsbByte_zero, ← (crcTablesFollowTheirFormulas _).2.2, step32]

theorem step16_tXcrc_eq_msbByte (r : BitVec 16) (b : Byte) : step16 tXcrc r b = msbByte 0x85A5 r b := by
  rw [msbByte_eq _ rfl, msbByte_zero, ← (crcTablesFollowTheirFormulas _).2.1, step16]

theorem bswap16_step16_tCrc16 (r : BitVec 16) (b : Byte) :
    bswap16 (step16 tCrc16 r b) = lsbByte 0xA001 (bswap16 r) b := by
  rw [step16, bswap16_xor, bswap16_shiftLeft, (crcTablesFollowTheirFormulas _).1, bswap16_bswap16,
    lsbByte_eq _ (by decide) rfl, lsbByte_zero, setWidth_bswap16]

/-- Settles O31: the fold of the engine's step over the range is the fold of the shift register's. -/
theorem xcrcIsTheBitSerialRegister : Obligations.XcrcIsTheBitSerialRegister := by
  unfold Obligations.XcrcIsTheBitSerialRegister
  intro s t d off cnt h o n hr hrun hok
  have hstep : step16 tXcrc = msbByte 0x85A5 := funext₂ step16_tXcrc_eq_msbByte
  rw [crcUpdate_ok hr hrun hok, State.withResponse_xcrc, State.withXcrc_xcrc, CrcEngine.update_reg, hstep]

/-- Settles O32: the byte swap carries the engine's step to the shift register's, so it carries the fold over. -/
theorem crc16IsTheByteSwappedArcRegister : Obligations.Crc16IsTheByteSwappedArcRegister := by
  unfold Obligations.Crc16IsTheByteSwappedArcRegister
  intro s t d off cnt h o n hr hrun hok
  rw [crcUpdate_ok hr hrun hok, State.withResponse_crc16, State.withCrc16_crc16, CrcEngine.update_reg]
  exact (List.foldl_hom bswap16 fun r b => (bswap16_step16_tCrc16 r b).symm).symm

/-- Settles O33, as O31. -/
theorem crc32IsTheReflectedRegister : Obligations.Crc32IsTheReflectedRegister := by
  unfold Obligations.Crc32IsTheReflectedRegister
  intro s t d off cnt h o n hr hrun hok
  have hstep : step32 = lsbByte 0xEDB88320 := funext₂ step32_eq_lsbByte
  rw [crcUpdate_ok hr hrun hok, State.withResponse_crc32, State.withCrc32_crc32, CrcEngine.update_reg, hstep]

end Sys2Proof.Machine
end

section
/-! The MD5 engine (`42_md5.md`): the step of the block transform, MD5_UPDATE as appending to the message the engine
holds, and the digest of MD5_FINAL as that of the whole message, padded. -/

namespace Sys2Proof.Machine

open Sys2Proof.Spec

/-! ### One step of the block transform (rules R152, R153, R158) -/

theorem md5K_lt (i : Nat) : md5K i < 16 := by
  unfold md5K
  split_ifs <;> omega

theorem md5Step_eq (i : Nat) (p q r s xk : Word) :
    md5Step i p q r s xk = q + (p + md5Fun i q r s + xk + tMd5 i).rotateLeft (sMd5 i) := by
  rw [md5Step, rotateLeft_eq]

/-- Settles O39: the message word is one of the sixteen, and the model's match on `i mod 4` is the table of rule R152. -/
theorem md5StepWritesOneWord : Obligations.Md5StepWritesOneWord := by
  unfold Obligations.Md5StepWritesOneWord
  intro x v i hx _
  have hk : md5K i < x.length := hx ▸ md5K_lt i
  have hword : x.getD (md5K i) 0 = x[md5K i] := List.getD_eq_getElem x 0 hk
  refine ⟨x[md5K i], List.getElem?_eq_getElem hk, fun h => ?_, fun h => ?_, fun h => ?_, fun h => ?_⟩ <;>
    simp only [md5StepWords, h, hword, md5Step_eq]

/-! ### INIT and FINAL on the whole state (rules R163, R164, R166) -/

theorem exec_md5Final_of_finalized {s : State} (h : s.md5.lc = .finalized) : exec .md5Final s = raise .sequence s :=
  if_pos h

theorem exec_md5Final_of_ne_finalized {s : State} (h : s.md5.lc ≠ .finalized) :
    exec .md5Final s = respond 16 s.md5.digest (s.withMd5 s.md5.final) := by
  rw [exec, execMd5Final, if_neg h, respondBytes, Md5Engine.digest_length]
  rfl

/-- Settles O36: the digest is the engine's own, whose length is 16. -/
theorem md5InitAndFinalRegisters : Obligations.Md5InitAndFinalRegisters := by
  unfold Obligations.Md5InitAndFinalRegisters
  intro s
  exact ⟨rfl, fun h => ⟨s.md5.digest, s.md5.digest_length, exec_md5Final_of_ne_finalized h⟩, exec_md5Final_of_finalized⟩

/-! ### The transform over the blocks of a message -/

/-- The whole blocks of a message are not changed by what comes behind them. -/
theorem md5Blocks_append {m : List Byte} {k : Nat} (hk : 64 * k ≤ m.length) (data : List Byte) :
    md5Blocks (m ++ data) k = md5Blocks m k := by
  induction k with
  | zero => rfl
  | succ k ih =>
    have hblock : ((m ++ data).drop (64 * k)).take 64 = (m.drop (64 * k)).take 64 := by
      rw [List.drop_append_of_le_length (by omega), List.take_append_of_le_length (by rw [List.length_drop]; omega)]
    rw [md5Blocks, md5Blocks, hblock, ih (by omega)]

/-- Chunks of the rest of a message behind its first `j` blocks carry on from there. -/
theorem md5Chunks_md5Blocks (m : List Byte) (j k : Nat) :
    md5Chunks (md5Blocks m j) (m.drop (64 * j)) k = (md5Blocks m (j + k), m.drop (64 * (j + k))) := by
  induction k generalizing j with
  | zero => rfl
  | succ k ih =>
    rw [md5Chunks, ← md5Blocks, List.drop_drop, ← Nat.mul_succ, ih (j + 1), Nat.add_right_comm, Nat.add_assoc]

/-! ### Md5Core appends to the message held (rule R161) -/

/-- What a copy leaves in front of its end. -/
theorem take_copyInto {dst : List Byte} {off : Nat} (hoff : off ≤ dst.length) (src : List Byte) :
    (copyInto dst off src).take (off + src.length) = dst.take off ++ src :=
  List.take_left' (by rw [List.length_append, List.length_take_of_le hoff])

section Holds

variable {m : List Byte} {e : Md5Engine} (h : Md5Holds m e) (data : List Byte)
include h

theorem pending_of_md5Holds : e.pending = m.length % 64 := by
  obtain ⟨-, -, hcount, -⟩ := h
  rw [Md5Engine.pending, hcount]
  omega

/-- The buffer's length and the count are right in every case, so the words and the bytes waiting decide. -/
theorem md5Holds_core_of
    (hfed : (e.core data).st = md5Blocks (m ++ data) ((m ++ data).length / 64) ∧
      (e.core data).buf.take ((m ++ data).length % 64) = (m ++ data).drop (64 * ((m ++ data).length / 64))) :
    Md5Holds (m ++ data) (e.core data) := by
  obtain ⟨hbuf, -, hcount, -⟩ := h
  obtain ⟨hst, hrest⟩ := hfed
  refine ⟨e.core_buf_length data hbuf, hst, ?_, hrest⟩
  rw [e.core_countLo, e.core_countHi, md5Count_sum, hcount, List.length_append]
  omega

/-- Filled up with new bytes, the buffer is the next block of the longer message. -/
theorem copyBytes_buf_of_md5Holds (hfull : 64 - m.length % 64 ≤ data.length) :
    copyBytes e.buf (m.length % 64) data 0 (64 - m.length % 64) =
      ((m ++ data).drop (64 * (m.length / 64))).take 64 := by
  obtain ⟨hbuf, -, -, hrest⟩ := h
  have hlt : m.length % 64 < 64 := Nat.mod_lt _ (by decide)
  have hlen : (m.drop (64 * (m.length / 64))).length = m.length % 64 := by rw [List.length_drop]; omega
  have hcopied : m.length % 64 + (data.take (64 - m.length % 64)).length = 64 := by
    rw [List.length_take_of_le hfull]; omega
  rw [copyBytes, copyInto, List.drop_zero, hcopied, List.drop_of_length_le hbuf.le, List.append_nil, hrest,
    List.drop_append_of_le_length (Nat.mul_div_le _ _), List.take_append, hlen,
    List.take_of_length_le (hlen.trans_lt hlt).le]

/-- Too few bytes to fill the buffer join the bytes waiting there. -/
theorem md5Holds_core_of_short (hshort : data.length < 64 - m.length % 64) : Md5Holds (m ++ data) (e.core data) := by
  refine md5Holds_core_of h data ?_
  have hpending := pending_of_md5Holds h
  obtain ⟨hbuf, hst, -, hrest⟩ := h
  have hdiv : (m ++ data).length / 64 = m.length / 64 := by rw [List.length_append]; omega
  have hmod : (m ++ data).length % 64 = m.length % 64 + data.length := by rw [List.length_append]; omega
  rw [e.core_short data (hpending ▸ hshort), hdiv, hmod, hpending]
  constructor
  · rw [md5Blocks_append (Nat.mul_div_le _ _)]
    exact hst
  · rw [List.drop_append_of_le_length (Nat.mul_div_le _ _), ← hrest]
    exact take_copyInto (by omega) data

/-- Enough bytes to fill the buffer complete a block, whole blocks follow, and the rest starts the buffer anew. -/
theorem md5Holds_core_of_long (hfull : 64 - m.length % 64 ≤ data.length) : Md5Holds (m ++ data) (e.core data) := by
  refine md5Holds_core_of h data ?_
  have hpending := pending_of_md5Holds h
  have hblock := copyBytes_buf_of_md5Holds h data hfull
  obtain ⟨-, hst, -, -⟩ := h
  have hst' : e.st = md5Blocks (m ++ data) (m.length / 64) := by rw [hst, md5Blocks_append (Nat.mul_div_le _ _)]
  have hpast : m.length ≤ 64 * (m.length / 64 + 1) := by omega
  have hnext : data.drop (64 - m.length % 64) = (m ++ data).drop (64 * (m.length / 64 + 1)) := by
    rw [List.drop_append, List.drop_of_length_le hpast, List.nil_append]
    congr 1
    omega
  have hblocks : m.length / 64 + 1 + (data.length - (64 - m.length % 64)) / 64 = (m ++ data).length / 64 := by
    rw [List.length_append]; omega
  rw [e.core_long data (hpending ▸ hfull), hpending, hblock, hst', ← md5Blocks, hnext, md5Chunks_md5Blocks, hblocks]
  refine ⟨rfl, ?_⟩
  have hlen : ((m ++ data).drop (64 * ((m ++ data).length / 64))).length = (m ++ data).length % 64 := by
    rw [List.length_drop]; omega
  have htake := take_copyInto (Nat.zero_le (((m ++ data).drop (64 * (m.length / 64))).take 64).length)
    ((m ++ data).drop (64 * ((m ++ data).length / 64)))
  rwa [hlen, Nat.zero_add, List.take_zero, List.nil_append] at htake

theorem md5Holds_core : Md5Holds (m ++ data) (e.core data) := by
  rcases lt_or_ge data.length (64 - m.length % 64) with hshort | hfull
  · exact md5Holds_core_of_short h data hshort
  · exact md5Holds_core_of_long h data hfull

/-- The message held does not depend on the lifecycle. -/
theorem md5Holds_withLc (lc : HashLc) : Md5Holds m { e with lc := lc } := h

theorem md5Holds_update : Md5Holds (m ++ data) (e.update data) :=
  md5Holds_withLc (md5Holds_core h data) .accumulating

end Holds

theorem md5Holds_init (e : Md5Engine) : Md5Holds [] e.init := by
  refine ⟨rfl, rfl, ?_, rfl⟩
  show (0#32).toNat * 2 ^ 32 + (0#32).toNat = 8 * 0 % 2 ^ 64
  decide

theorem md5Holds_reset : Md5Holds [] State.reset.md5 := md5Holds_init Md5Engine.reset

theorem exec_md5Update_of_inRange {s : State} {d : Descriptor} {off cnt : Word} {h o n : Nat}
    (hr : InRange s.mem d off cnt h o n) (hlc : s.md5.lc ≠ .finalized) :
    exec (.md5Update d off cnt) s = respond 0 [] (s.withMd5 (s.md5.update (s.mem.bytes h o n))) := by
  have hchecks := (updateChecks_eq_ok_iff s.md5.lc s.mem d off cnt _).mpr ⟨hlc, checkRange_of_inRange hr⟩
  rcases execMd5Update_cases d off cnt s with ⟨err, herr, -⟩ | ⟨r, hok, hrun⟩
  · cases hchecks.symm.trans herr
  · cases hchecks.symm.trans hok
    exact hrun

/-- Settles O37: holding a message is an invariant that `Md5Core` carries from `m` to `m` followed by its bytes. -/
theorem md5UpdateAppendsToTheMessage : Obligations.Md5UpdateAppendsToTheMessage := by
  unfold Obligations.Md5UpdateAppendsToTheMessage
  refine ⟨md5Holds_init, md5Holds_reset, fun s d off cnt h o n m hr hlc hm => ?_⟩
  exact ⟨s.md5.update (s.mem.bytes h o n), exec_md5Update_of_inRange hr hlc, md5Holds_update hm _, rfl,
    s.md5.update_hash _, s.md5.update_hashValid _⟩

/-! ### Padding and digest (rules R162, R163, R167) -/

theorem wordBytes_eq_leBytes (x : Word) : wordBytes x = leBytes 4 x.toNat := by
  simp only [wordBytes, byteOf, extractLsb'_eq_ofNat_div]; rfl

theorem md5Digest_eq_leBytes (v : Md5Words) :
    md5Digest v = leBytes 4 v.a.toNat ++ leBytes 4 v.b.toNat ++ leBytes 4 v.c.toNat ++ leBytes 4 v.d.toNat := by
  simp only [md5Digest, encodeAll, if_true, wordBytes_eq_leBytes, List.append_nil, List.append_assoc]

/-- The two words of the counter, low word first, are the bytes of the 64-bit number. -/
theorem encodeAll_pair_eq_leBytes (lo hi : Word) :
    encodeAll true [lo, hi] = leBytes 8 (hi.toNat * 2 ^ 32 + lo.toNat) := by
  have hlo := lo.isLt
  have hbytes : leBytes 8 (hi.toNat * 2 ^ 32 + lo.toNat) = leBytes 4 lo.toNat ++ leBytes 4 hi.toNat := by
    simp only [leBytes, List.range, List.range.loop, List.map_cons, List.map_nil, List.cons_append, List.nil_append,
      List.cons.injEq, and_true, ← BitVec.toNat_inj, BitVec.toNat_ofNat]
    omega
  simp only [hbytes, encodeAll, if_true, wordBytes_eq_leBytes, List.append_nil]

/-- The engine's padding length, 1 to 64 with the byte 0x80, is the count of zeros of the one-shot padding and 1. -/
theorem md5PadLen_sub_one {p : Nat} (hp : p < 64) : md5PadLen p - 1 = (119 - p) % 64 := by
  unfold md5PadLen
  split <;> omega

/-- An engine that holds a message holds, once padded, the padded message. -/
theorem md5Holds_padded {m : List Byte} {e : Md5Engine} (h : Md5Holds m e) : Md5Holds (md5Padded m) e.padded := by
  have hpadded := md5Holds_core (md5Holds_core h (0x80 :: zeros (md5PadLen e.pending - 1)))
    (encodeAll true [e.countLo, e.countHi])
  have hpending := pending_of_md5Holds h
  obtain ⟨-, -, hcount, -⟩ := h
  have hmessage : m ++ 0x80 :: zeros (md5PadLen e.pending - 1) ++ encodeAll true [e.countLo, e.countHi] = md5Padded m := by
    rw [hpending, md5PadLen_sub_one (Nat.mod_lt _ (by decide)), encodeAll_pair_eq_leBytes, hcount, md5Padded, zeros,
      List.append_cons m]
  rw [hmessage] at hpadded
  exact hpadded

theorem digest_of_md5Holds {m : List Byte} {e : Md5Engine} (h : Md5Holds m e) : e.digest = Spec.md5 m := by
  obtain ⟨-, hst, -, -⟩ := md5Holds_padded h
  rw [Md5Engine.digest, hst, md5Digest_eq_leBytes, Spec.md5]

/-- Settles O38: MD5_FINAL feeds the padding as further bytes of the message, so its words are those of the one-shot
digest. -/
theorem md5FinalReturnsTheDigestOfTheMessage : Obligations.Md5FinalReturnsTheDigestOfTheMessage := by
  unfold Obligations.Md5FinalReturnsTheDigestOfTheMessage
  intro s m hlc hm
  rw [exec_md5Final_of_ne_finalized hlc, Md5Engine.final, digest_of_md5Holds hm]
  rfl

end Sys2Proof.Machine
end

section
/-! The frames of the AES, configuration, session and system commands (`43_aes_core.md` rules R200 to R202,
`44_transform.md` rules R222 to R240, `45_system.md` rules R250, R251). -/

namespace Sys2Proof.Machine

/-- The next state of a command, its response apart: unchanged (an error) or one the command completes in. -/
theorem exec_next_completes {i : Instr} {s t : State} (h : exec i s = .next t) :
    ∃ u r, t = u.withResponse r ∧ (u = s ∨ ∃ v out, Completes i s v out u) := by
  rcases exec_next h with ⟨e, -, rfl⟩ | ⟨v, out, u, hu, rfl⟩
  · exact ⟨s, _, rfl, .inl rfl⟩
  · exact ⟨u, _, rfl, .inr ⟨v, out, hu⟩⟩

/-- XF_LC, FB, HOLD and HOLD_VALID are the only session registers XF_FINAL writes (rule R236). -/
theorem Session.finish_frame {k : KeySchedule} {x : Session} {data : List Byte} {t : Session × List Byte}
    (h : x.finish k data = .ok t) :
    t.1 = { x with lc := t.1.lc, fb := t.1.fb, hold := t.1.hold, holdValid := t.1.holdValid } := by
  unfold Session.finish at h
  split at h
  · cases h
    rfl
  · simp only [Session.finishDecrypt] at h
    split at h
    · split at h
      · cases h
      · cases h
        rfl
    · cases h
      rfl

/-- Settles O24: each command has one state it completes in, which writes the registers of its clause;
the zero a cipher command writes to STATE is there already. -/
theorem cipherAndSystemFrames : Obligations.CipherAndSystemFrames := by
  unfold Obligations.CipherAndSystemFrames
  intro s t
  refine ⟨fun n h => ?rdreg, fun e h => ?rdhash, fun k h => ?keyexp, fun d0 d1 d2 d3 h haes => ?cipher,
    fun d0 d1 d2 d3 h haes => ?invcipher, fun m h => ?setmode, fun p h => ?setpad, fun k v h => ?createEnc,
    fun k v h => ?createDec, fun d off cnt h haes => ?final, fun h => ?dispose⟩
  case rdreg | rdhash | keyexp | setmode | setpad | createEnc | createDec | dispose =>
    obtain ⟨u, r, rfl, rfl | ⟨v, out, hu⟩⟩ := exec_next_completes h
    · rfl
    · cases hu
      rfl
  case cipher | invcipher =>
    obtain ⟨u, r, rfl, rfl | ⟨v, out, hu⟩⟩ := exec_next_completes h
    · rfl
    · cases hu
      rw [← haes]
      rfl
  case final =>
    obtain ⟨u, r, rfl, rfl | ⟨v, out, hu⟩⟩ := exec_next_completes h
    · rfl
    · cases hu with
      | xfFinal _ hfin =>
        rw [Session.finish_frame hfin, ← haes]
        rfl

end Sys2Proof.Machine
end

section
/-! The stages of the AES rounds and their inverses (`43_aes_core.md` rules R182 to R189, R194). -/

namespace Sys2Proof.Machine

open Sys2Proof.Spec

/-! ### The S-box -/

theorem sbox_eq_affine : ∀ v : Byte, sbox v = affine (gfInv v) := forall_byte (by decide +kernel)

theorem gfMul_gfInv : ∀ v : Byte, v ≠ 0 → gfMul v (gfInv v) = 1 := forall_byte (by decide +kernel)

/-- Settles O40, the formula and the inverse entry by entry on the 256 bytes. -/
theorem sboxIsTheAffineInverse : Obligations.SboxIsTheAffineInverse :=
  ⟨by decide, fun v => ⟨sbox_eq_affine v, gfMul_gfInv v, isbox_sbox v, sbox_isbox v⟩⟩

/-! ### SubBytes and ShiftRows -/

@[simp] theorem invSubBytes_subBytes (x : Block) : invSubBytes (subBytes x) = x := by
  simp [invSubBytes, subBytes, Block.map, Quad.map]

@[simp] theorem subBytes_invSubBytes (x : Block) : subBytes (invSubBytes x) = x := by
  simp [invSubBytes, subBytes, Block.map, Quad.map]

@[simp] theorem invShiftRows_shiftRows (x : Block) : invShiftRows (shiftRows x) = x := rfl

@[simp] theorem shiftRows_invShiftRows (x : Block) : shiftRows (invShiftRows x) = x := rfl

/-! ### MixColumns

Both directions are linear, so each product of the two is the identity once it fixes the columns with one byte. -/

theorem xor_quadruples (a b c d a' b' c' d' : Byte) :
    (a ^^^ a') ^^^ (b ^^^ b') ^^^ (c ^^^ c') ^^^ (d ^^^ d') = (a ^^^ b ^^^ c ^^^ d) ^^^ (a' ^^^ b' ^^^ c' ^^^ d') := by
  rw [xor_pairs a b, xor_pairs _ c, xor_pairs _ d]

theorem mixColumn_xor (p q : Quad) : mixColumn (p.xor q) = (mixColumn p).xor (mixColumn q) := by
  simp only [mixColumn, Quad.xor, gf02_xor, gf03_xor, xor_quadruples]

theorem invMixColumn_xor (p q : Quad) : invMixColumn (p.xor q) = (invMixColumn p).xor (invMixColumn q) := by
  simp only [invMixColumn, Quad.xor, gf09_xor, gf0b_xor, gf0d_xor, gf0e_xor, xor_quadruples]

/-- The function `f` on columns fixes the columns whose bytes are `b` in one row and 0 in the others. -/
abbrev FixesUnits (f : Quad → Quad) (b : Byte) : Prop :=
  f ⟨b, 0, 0, 0⟩ = ⟨b, 0, 0, 0⟩ ∧ f ⟨0, b, 0, 0⟩ = ⟨0, b, 0, 0⟩ ∧ f ⟨0, 0, b, 0⟩ = ⟨0, 0, b, 0⟩ ∧
    f ⟨0, 0, 0, b⟩ = ⟨0, 0, 0, b⟩

theorem Quad.eq_xor_units (q : Quad) :
    q = (Quad.xor ⟨q.b0, 0, 0, 0⟩ ⟨0, q.b1, 0, 0⟩).xor (Quad.xor ⟨0, 0, q.b2, 0⟩ ⟨0, 0, 0, q.b3⟩) := by
  simp [Quad.xor]

theorem eq_self_of_xor_of_fixesUnits {f : Quad → Quad} (hxor : ∀ p q, f (p.xor q) = (f p).xor (f q))
    (hunits : ∀ b, FixesUnits f b) (q : Quad) : f q = q := by
  obtain ⟨h0, -, -, -⟩ := hunits q.b0
  obtain ⟨-, h1, -, -⟩ := hunits q.b1
  obtain ⟨-, -, h2, -⟩ := hunits q.b2
  obtain ⟨-, -, -, h3⟩ := hunits q.b3
  conv_lhs => rw [Quad.eq_xor_units q, hxor, hxor, hxor, h0, h1, h2, h3]
  exact (Quad.eq_xor_units q).symm

@[simp] theorem invMixColumn_mixColumn (q : Quad) : invMixColumn (mixColumn q) = q :=
  eq_self_of_xor_of_fixesUnits (f := fun q => invMixColumn (mixColumn q))
    (fun p q => by rw [mixColumn_xor, invMixColumn_xor]) (forall_byte (by decide +kernel)) q

@[simp] theorem mixColumn_invMixColumn (q : Quad) : mixColumn (invMixColumn q) = q :=
  eq_self_of_xor_of_fixesUnits (f := fun q => mixColumn (invMixColumn q))
    (fun p q => by rw [invMixColumn_xor, mixColumn_xor]) (forall_byte (by decide +kernel)) q

@[simp] theorem invMixColumns_mixColumns (x : Block) : invMixColumns (mixColumns x) = x := by
  simp [invMixColumns, mixColumns]

@[simp] theorem mixColumns_invMixColumns (x : Block) : mixColumns (invMixColumns x) = x := by
  simp [invMixColumns, mixColumns]

/-! ### AddRoundKey -/

theorem Block.xor_xor_cancel_right (x y : Block) : (x.xor y).xor y = x := by
  simp [Block.xor, Quad.xor]

@[simp] theorem addRoundKey_addRoundKey (w : List Quad) (round : Nat) (x : Block) :
    addRoundKey w round (addRoundKey w round x) = x :=
  Block.xor_xor_cancel_right x _

/-- Settles O41. -/
theorem roundStagesAreInverse : Obligations.RoundStagesAreInverse := fun x w round =>
  ⟨invSubBytes_subBytes x, invShiftRows_shiftRows x, invMixColumns_mixColumns x, subBytes_invSubBytes x,
    shiftRows_invShiftRows x, mixColumns_invMixColumns x, addRoundKey_addRoundKey w round x⟩

end Sys2Proof.Machine
end

section
/-! The rows of the key schedule (`43_aes_core.md` rules R191 to R193) and the command that loads it (rule R200). -/

namespace Sys2Proof.Machine

open Sys2Proof.Spec

/-! ### The first rows are the key -/

theorem rowAt_keyRows : ∀ (key : List Byte) {row : Nat}, row < key.length / 4 →
    rowAt (keyRows key) row = quadAt key (4 * row)
  | [], _, h | [_], _, h | [_, _], _, h | [_, _, _], _, h => by simp at h
  | _ :: _ :: _ :: _ :: _, 0, _ => rfl
  | _ :: _ :: _ :: _ :: t, row + 1, h => rowAt_keyRows t (by simp only [List.length_cons] at h; omega)

/-! ### The rows after them -/

/-- Row `row` of `w` follows from the row before it and the row `nk` places back (rule R193). -/
def IsExpandedRow (nk : Nat) (w : List Quad) (row : Nat) : Prop :=
  rowAt w row = (rowAt w (row - nk)).xor (keyTemp nk row (rowAt w (row - 1)))

theorem suffix_expandRows (nk n row : Nat) (done : List Quad) : done <:+ expandRows nk n row done := by
  induction n generalizing row done with
  | zero => exact List.suffix_rfl
  | succ n ih => exact (List.suffix_cons _ done).trans (ih _ _)

/-- The rows already there stay. -/
theorem rowAt_expandRows_of_lt (nk n row : Nat) {done : List Quad} {i : Nat} (hi : i < done.length) :
    rowAt (expandRows nk n row done).reverse i = rowAt done.reverse i := by
  obtain ⟨new, hnew⟩ := suffix_expandRows nk n row done
  rw [← hnew, List.reverse_append]
  exact List.getD_append _ _ _ _ (by rwa [List.length_reverse])

/-- The row `j + 1` places back from where `done` ends is entry `j` of `done`, which holds the newest first. -/
theorem rowAt_expandRows_back (nk n row : Nat) {done : List Quad} {j : Nat} (hj : j < done.length) :
    rowAt (expandRows nk n row done).reverse (done.length - (j + 1)) = rowAt done j := by
  have hj' : done.length - 1 - (done.length - (j + 1)) = j := by omega
  rw [rowAt_expandRows_of_lt nk n row (by omega), rowAt, List.getD_reverse _ (by omega), hj', rowAt]

theorem isExpandedRow_expandRows {nk n row r : Nat} {done : List Quad} (hdone : done.length = row) (hnk : 0 < nk)
    (hle : nk ≤ row) (hr : row ≤ r) (hlt : r < row + n) : IsExpandedRow nk (expandRows nk n row done).reverse r := by
  induction n generalizing row done with
  | zero => omega
  | succ n ih =>
    rcases hr.eq_or_lt with rfl | hr
    · subst hdone
      have hback := rowAt_expandRows_back nk (n + 1) done.length (done := done) (j := nk - 1) (by omega)
      have hprev := rowAt_expandRows_back nk (n + 1) done.length (done := done) (j := 0) (by omega)
      rw [Nat.sub_add_cancel hnk] at hback
      rw [IsExpandedRow, hback, hprev, expandRows]
      exact rowAt_expandRows_back nk n (done.length + 1) (j := 0) (Nat.succ_pos _)
    · exact ih (by rw [List.length_cons, hdone]) (by omega) hr (by omega)

/-! ### The expansion of a key of `nk` words -/

section Expansion

variable {key : List Byte} {nk : Nat} (hkey : key.length = 4 * nk)
include hkey

theorem length_reverse_keyRows : (keyRows key).reverse.length = nk := by
  rw [List.length_reverse, keyRows_length]
  omega

/-- In front of the zero rows stand the expanded ones. -/
theorem rowAt_expandedKey {row : Nat} (hrow : row < 4 * (nk + 7)) : rowAt (expandedKey nk key) row =
    rowAt (expandRows nk (4 * (nk + 7) - nk) nk (keyRows key).reverse).reverse row := by
  refine List.getD_append _ _ _ _ ?_
  rw [List.length_reverse, expandRows_length, length_reverse_keyRows hkey]
  omega

theorem rowAt_expandedKey_key {row : Nat} (hrow : row < nk) :
    rowAt (expandedKey nk key) row = quadAt key (4 * row) := by
  have hdone : row < (keyRows key).reverse.length := by rwa [length_reverse_keyRows hkey]
  rw [rowAt_expandedKey hkey (by omega), rowAt_expandRows_of_lt _ _ _ hdone, List.reverse_reverse]
  exact rowAt_keyRows key (by omega)

theorem isExpandedRow_expandedKey (hnk : 0 < nk) {row : Nat} (hge : nk ≤ row) (hlt : row < 4 * (nk + 7)) :
    IsExpandedRow nk (expandedKey nk key) row := by
  rw [IsExpandedRow, rowAt_expandedKey hkey hlt, rowAt_expandedKey hkey (by omega), rowAt_expandedKey hkey (by omega)]
  exact isExpandedRow_expandRows (length_reverse_keyRows hkey) hnk le_rfl hge (by omega)

theorem keyExpansion_eq : keyExpansion key = ⟨expandedKey nk key, BitVec.ofNat 4 nk, true⟩ := by
  rw [keyExpansion, hkey, Nat.mul_div_cancel_left nk (by decide)]

end Expansion

/-- Settles O42, by the three kinds of rows. -/
theorem keyExpansionRows : Obligations.KeyExpansionRows := by
  unfold Obligations.KeyExpansionRows
  intro key nk hnk hkey
  rw [keyExpansion_eq hkey]
  exact ⟨expandedKey_length nk key hkey (by omega), Nat.mod_eq_of_lt (by omega), rfl,
    fun row hrow => rowAt_expandedKey_key hkey hrow,
    fun row hge hlt => isExpandedRow_expandedKey hkey (by omega) hge hlt,
    fun row hge => expandedKey_row_zero nk key hkey row hge⟩

/-! ### AES_KEYEXP -/

theorem namedBuffer_of_isNull {m : Memory} {d : Descriptor} (h : IsNull m d) : namedBuffer m d = none := by
  rcases h with h | h <;> simp [namedBuffer, h]

theorem namedBuffer_of_not_isNull {m : Memory} {d : Descriptor} (h : ¬IsNull m d) :
    namedBuffer m d = some (d.handle.toNat, lenOf m d) := by
  obtain ⟨hvalid, hlen⟩ := not_or.mp h
  obtain ⟨n, hn⟩ := Option.ne_none_iff_exists'.mp hlen
  simp [namedBuffer, lenOf, hvalid, hn]

theorem checkKey_of_isNull {m : Memory} {d : Descriptor} (h : IsNull m d) : checkKey m d = .error (.arg .null) := by
  simp only [checkKey, namedBuffer_of_isNull h]

theorem checkKey_of_not_isNull {m : Memory} {d : Descriptor} (h : ¬IsNull m d) :
    checkKey m d = checkKeyLength d.handle.toNat (lenOf m d) := by
  simp only [checkKey, namedBuffer_of_not_isNull h]

theorem checkKeyLength_of_mem {n : Nat} (h : n ∈ [16, 24, 32]) (b : Nat) : checkKeyLength b n = .ok (b, n) :=
  if_pos (by simpa using h)

theorem checkKeyLength_of_not_mem {n : Nat} (h : n ∉ [16, 24, 32]) (b : Nat) :
    checkKeyLength b n = .error (.arg .keylen) :=
  if_neg (by simpa using h)

theorem keyexpChecks_of_session {s : State} (h : s.xf.lc ≠ .disposed) (k : Descriptor) :
    keyexpChecks s k = .error .sequence :=
  if_pos h

theorem keyexpChecks_of_disposed {s : State} (h : s.xf.lc = .disposed) (k : Descriptor) :
    keyexpChecks s k = checkKey s.mem k :=
  if_neg (not_not.mpr h)

theorem exec_aesKeyexp_of_error {s : State} {k : Descriptor} {e : Err} (h : keyexpChecks s k = .error e) :
    exec (.aesKeyexp k) s = .next (failed s e) := by
  rcases execAesKeyexp_cases k s with ⟨err, herr, hrun⟩ | ⟨r, hok, -⟩
  · cases h.symm.trans herr
    exact hrun
  · cases h.symm.trans hok

theorem exec_aesKeyexp_of_ok {s : State} {k : Descriptor} {r : Nat × Nat} (h : keyexpChecks s k = .ok r) :
    exec (.aesKeyexp k) s = respond 0 [] (s.withKey (keyExpansion (s.mem.bytes r.1 0 r.2))) := by
  rcases execAesKeyexp_cases k s with ⟨err, herr, -⟩ | ⟨r', hok, hrun⟩
  · cases h.symm.trans herr
  · cases h.symm.trans hok
    exact hrun

/-- Settles O44: the checks of rule R200 one after the other. -/
theorem aesKeyexpLoadsTheKey : Obligations.AesKeyexpLoadsTheKey := by
  unfold Obligations.AesKeyexpLoadsTheKey
  intro s k
  refine ⟨fun hlc => ?session, fun hlc hnull => ?null, fun hlc hnull hlen => ?keylen, fun hlc hnull hlen => ?loaded⟩
  case session => exact exec_aesKeyexp_of_error (keyexpChecks_of_session hlc k)
  case null => exact exec_aesKeyexp_of_error ((keyexpChecks_of_disposed hlc k).trans (checkKey_of_isNull hnull))
  case keylen =>
    refine exec_aesKeyexp_of_error ?_
    rw [keyexpChecks_of_disposed hlc, checkKey_of_not_isNull hnull, checkKeyLength_of_not_mem hlen]
  case loaded =>
    refine exec_aesKeyexp_of_ok (r := (k.handle.toNat, lenOf s.mem k)) ?_
    rw [keyexpChecks_of_disposed hlc, checkKey_of_not_isNull hnull, checkKeyLength_of_mem hlen]

end Sys2Proof.Machine
end

section
/-! The two block functions and their commands (`43_aes_core.md` rules R195 to R197, R201, R202). -/

namespace Sys2Proof.Machine

open Sys2Proof.Spec

/-! ### The rounds in order (rules R195, R196) -/

theorem encRounds_eq_foldl (w : List Quad) (x : Block) (n : Nat) :
    encRounds w x n = (List.range' 1 n).foldl (fun y round => encRound w round y) x := by
  induction n with
  | zero => rfl
  | succ n ih => rw [encRounds, ih, List.range'_1_concat, List.foldl_concat, Nat.add_comm n 1]

theorem decRounds_eq_foldl (w : List Quad) (n : Nat) (x : Block) :
    decRounds w n x = (List.range' 1 n).reverse.foldl (fun y round => decRound w round y) x := by
  induction n generalizing x with
  | zero => rfl
  | succ n ih => rw [decRounds, ih, List.range'_1_concat, List.reverse_concat, List.foldl_cons, Nat.add_comm n 1]

/-- Settles O43: the model's recursions over the round number are the folds over the rounds' list. -/
theorem cipherRoundSequence : Obligations.CipherRoundSequence := by
  unfold Obligations.CipherRoundSequence
  rintro k x nr rfl
  constructor
  · rw [cipher, encRounds_eq_foldl]
    rfl
  · rw [invCipher, decRounds_eq_foldl]
    rfl

/-! ### The block functions are inverse (rule R197) -/

/-! The rounds of the two functions are half a round apart: a round of one undoes a round of the other between two of
the places where SubBytes and ShiftRows stand next to each other. -/

theorem decRound_encRound (w : List Quad) (round : Nat) (x : Block) :
    decRound w round (shiftRows (subBytes (encRound w round x))) = shiftRows (subBytes x) := by
  simp [decRound, encRound]

theorem encRound_decRound (w : List Quad) (round : Nat) (x : Block) :
    encRound w round (invSubBytes (invShiftRows (decRound w round x))) = invSubBytes (invShiftRows x) := by
  simp [encRound, decRound]

theorem decRounds_encRounds (w : List Quad) (x : Block) (n : Nat) :
    decRounds w n (shiftRows (subBytes (encRounds w x n))) = shiftRows (subBytes x) := by
  induction n with
  | zero => rfl
  | succ n ih => rw [encRounds, decRounds, decRound_encRound, ih]

theorem encRounds_decRounds (w : List Quad) (x : Block) (n : Nat) :
    encRounds w (invSubBytes (invShiftRows (decRounds w n x))) n = invSubBytes (invShiftRows x) := by
  induction n generalizing x with
  | zero => rfl
  | succ n ih => rw [encRounds, decRounds, ih, encRound_decRound]

theorem invCipher_cipher (k : KeySchedule) (x : Block) : invCipher k (cipher k x) = x := by
  simp [invCipher, cipher, decRounds_encRounds]

theorem cipher_invCipher (k : KeySchedule) (x : Block) : cipher k (invCipher k x) = x := by
  simp [invCipher, cipher, encRounds_decRounds]

/-! ### The words of a block (`30_encoding.md` rules R87, R88) -/

/-- The word of four bytes, low byte first. -/
def Quad.toWord (q : Quad) : Word := wordOf q.b0 q.b1 q.b2 q.b3

theorem Quad.ofWord_toWord (q : Quad) : Quad.ofWord q.toWord = q := by
  have hbytes := wordBytes_wordOf q.b0 q.b1 q.b2 q.b3
  simp only [wordBytes, List.cons.injEq, and_true] at hbytes
  obtain ⟨h0, h1, h2, h3⟩ := hbytes
  rw [Quad.ofWord, Quad.toWord, h0, h1, h2, h3]

theorem Quad.toWord_ofWord (x : Word) : (Quad.ofWord x).toWord = x := wordOf_byteOf x

/-- The output words of a block as an inline block again. -/
theorem Block.ofWords_toWord (x : Block) : Block.ofWords x.c0.toWord x.c1.toWord x.c2.toWord x.c3.toWord = x := by
  simp only [Block.ofWords, Quad.ofWord_toWord]

theorem packWords_bytes (x : Block) :
    packWords x.bytes = [x.c0.toWord, x.c1.toWord, x.c2.toWord, x.c3.toWord] := rfl

theorem packWords_bytes_ofWords (d0 d1 d2 d3 : Word) : packWords (Block.ofWords d0 d1 d2 d3).bytes = [d0, d1, d2, d3] := by
  simp only [packWords_bytes, Block.ofWords, Quad.toWord_ofWord]

/-! ### AES_CIPHER and AES_INVCIPHER -/

section

variable {f g : KeySchedule → Block → Block} {s : State}

theorem blockCommand_of_valid (h : s.key.valid = true) (x : Block) :
    blockCommand f x s = respond 16 (f s.key x).bytes (s.withAesState Block.zero) := by
  rw [blockCommand, if_pos h, respondBytes, Block.bytes_length]
  rfl

theorem blockCommand_of_not_valid (h : s.key.valid = false) (x : Block) : blockCommand f x s = raise .sequence s :=
  if_neg (by simp [h])

/-- With a key loaded a block command keeps the key and answers the words of its block function. -/
theorem blockCommand_words (f : KeySchedule → Block → Block) (h : s.key.valid = true) (x : Block) :
    ∃ t, blockCommand f x s = .next t ∧ t.key = s.key ∧
      t.response.map Response.words = some (0 :: 16 :: packWords (f s.key x).bytes) :=
  ⟨_, blockCommand_of_valid h x, rfl, rfl⟩

/-- The words a block command answers, given to the command of the inverse, come back as the first words. -/
theorem blockCommand_roundTrip (hgf : ∀ k x, g k (f k x) = x) (h : s.key.valid = true) (d0 d1 d2 d3 : Word) :
    ∃ e0 e1 e2 e3 t u, blockCommand f (Block.ofWords d0 d1 d2 d3) s = .next t ∧
      t.response.map Response.words = some [0, 16, e0, e1, e2, e3] ∧
      blockCommand g (Block.ofWords e0 e1 e2 e3) t = .next u ∧
      u.response.map Response.words = some [0, 16, d0, d1, d2, d3] := by
  obtain ⟨t, ht, hkey, hwords⟩ := blockCommand_words f h (Block.ofWords d0 d1 d2 d3)
  obtain ⟨u, hu, -, hback⟩ := blockCommand_words g (s := t) (hkey ▸ h) (f s.key (Block.ofWords d0 d1 d2 d3))
  rw [hkey, hgf, packWords_bytes_ofWords] at hback
  rw [← Block.ofWords_toWord (f s.key _)] at hu
  exact ⟨_, _, _, _, t, u, ht, hwords, hu, hback⟩

end

/-- Settles O45: a block has 16 bytes. -/
theorem aesBlockCommandsReturnTheBlock : Obligations.AesBlockCommandsReturnTheBlock := by
  unfold Obligations.AesBlockCommandsReturnTheBlock
  intro s d0 d1 d2 d3
  exact ⟨fun h => blockCommand_of_valid h _, fun h => blockCommand_of_valid h _,
    fun h => blockCommand_of_not_valid h _, fun h => blockCommand_of_not_valid h _⟩

/-- Settles O46: the block functions are inverse under every key schedule, and words carry blocks without loss. -/
theorem invCipherUndoesCipher : Obligations.InvCipherUndoesCipher := by
  unfold Obligations.InvCipherUndoesCipher
  intro s d0 d1 d2 d3 h
  exact ⟨blockCommand_roundTrip invCipher_cipher h d0 d1 d2 d3, blockCommand_roundTrip cipher_invCipher h d0 d1 d2 d3⟩

end Sys2Proof.Machine
end

section
/-! Configuration codes, the lifecycle of a session, its creation, and the checks of XF_BLOCK (`44_transform.md` rules
R220 to R227, R232, R240). -/

namespace Sys2Proof.Machine

open Sys2Proof.Spec

/-! ### Configuration (rules R221 to R223) -/

theorem exec_cfgSetmode_of_ok {c : BitVec 16} {v : CipherMode} (h : modeOfCode c = .ok v) (s : State) :
    exec (.cfgSetmode c) s = respond 0 [] (s.withMode v) := by
  simp only [exec, execCfgSetmode, h, orRaise]

theorem exec_cfgSetmode_of_error {c : BitVec 16} {e : Err} (h : modeOfCode c = .error e) (s : State) :
    exec (.cfgSetmode c) s = .next (failed s e) := by
  simp only [exec, execCfgSetmode, h, orRaise]
  rfl

theorem exec_cfgSetpad_of_ok {c : BitVec 16} {v : PaddingMode} (h : paddingOfCode c = .ok v) (s : State) :
    exec (.cfgSetpad c) s = respond 0 [] (s.withPadding v) := by
  simp only [exec, execCfgSetpad, h, orRaise]

theorem exec_cfgSetpad_of_error {c : BitVec 16} {e : Err} (h : paddingOfCode c = .error e) (s : State) :
    exec (.cfgSetpad c) s = .next (failed s e) := by
  simp only [exec, execCfgSetpad, h, orRaise]
  rfl

theorem modeOfCode_of_unsupported {c : BitVec 16} (hge : 3 ≤ c.toNat) (hle : c.toNat ≤ 5) :
    modeOfCode c = .error .notSupported := by
  have hcode : c.toNat = 3 ∨ c.toNat = 4 ∨ c.toNat = 5 := by omega
  rcases hcode with h | h | h <;> simp [modeOfCode, h]

theorem paddingOfCode_of_unsupported {c : BitVec 16} (hge : 4 ≤ c.toNat) (hle : c.toNat ≤ 5) :
    paddingOfCode c = .error .notSupported := by
  have hcode : c.toNat = 4 ∨ c.toNat = 5 := by omega
  rcases hcode with h | h <;> simp [paddingOfCode, h]

theorem isCode_eq_false {c : BitVec 16} (h : c.toNat = 0 ∨ 5 < c.toNat) : isCode c = false := by
  rw [← Bool.not_eq_true, isCode_iff]
  omega

/-- Settles O47, code by code. -/
theorem configurationCodes : Obligations.ConfigurationCodes := by
  unfold Obligations.ConfigurationCodes
  intro s c
  refine ⟨fun h => exec_cfgSetmode_of_ok (v := .cbc) ?cbc s, fun h => exec_cfgSetmode_of_ok (v := .ecb) ?ecb s,
    fun hge hle => exec_cfgSetmode_of_error (modeOfCode_of_unsupported hge hle) s,
    fun h => exec_cfgSetmode_of_error ((modeOfCode_eq_illegal_iff c).mpr (isCode_eq_false h)) s,
    fun h => exec_cfgSetpad_of_ok (v := .noPad) ?noPad s, fun h => exec_cfgSetpad_of_ok (v := .pkcs7) ?pkcs7 s,
    fun h => exec_cfgSetpad_of_ok (v := .zeros) ?zeros s,
    fun hge hle => exec_cfgSetpad_of_error (paddingOfCode_of_unsupported hge hle) s,
    fun h => exec_cfgSetpad_of_error ((paddingOfCode_eq_illegal_iff c).mpr (isCode_eq_false h)) s⟩
  case cbc | ecb => simp [modeOfCode, h]
  case noPad | pkcs7 | zeros => simp [paddingOfCode, h]

/-- Settles O56: XF_DISPOSE has no check, and it writes the cleared key schedule and session. -/
theorem disposeZeroesKeyAndSession : Obligations.DisposeZeroesKeyAndSession := fun _ => rfl

/-! ### The checks of a session command: errors raised, effects run -/

theorem openSession_of_isOpen {x : Session} (h : IsOpen x) : openSession x = .ok () := by
  rcases h with h | h <;> simp [openSession, h]

theorem openSession_of_disposed {x : Session} (h : x.lc = .disposed) : openSession x = .error .disposed := by
  simp [openSession, h]

theorem openSession_of_finalized {x : Session} (h : x.lc = .finalized) : openSession x = .error .sequence := by
  simp [openSession, h]

theorem xfCreate_of_error {s : State} {k v : Descriptor} {e : Err} (h : createChecks s k v = .error e) (dir : Dir) :
    xfCreate dir k v s = .next (failed s e) := by
  rcases xfCreate_cases dir k v s with ⟨err, herr, hrun⟩ | ⟨r, hok, -⟩
  · cases h.symm.trans herr
    exact hrun
  · cases h.symm.trans hok

theorem xfCreate_of_ok {s : State} {k v : Descriptor} {r : (Nat × Nat) × (Nat × Nat)} (h : createChecks s k v = .ok r)
    (dir : Dir) : xfCreate dir k v s =
      respond 0 [] ((s.withKey (keyExpansion (s.mem.bytes r.1.1 0 r.1.2))).withXf
        (Session.create dir s.mode s.padding (ivToBlock (s.mem.bytes r.2.1 0 (min r.2.2 16))))) := by
  rcases xfCreate_cases dir k v s with ⟨err, herr, -⟩ | ⟨r', hok, hrun⟩
  · cases h.symm.trans herr
  · cases h.symm.trans hok
    exact hrun

theorem exec_xfBlock_of_error {s : State} {din dout : Descriptor} {inOff inCount outOff : Word} {e : Err}
    (h : blockChecks s din inOff inCount dout outOff = .error e) :
    exec (.xfBlock din inOff inCount dout outOff) s = .next (failed s e) := by
  rcases execXfBlock_cases din inOff inCount dout outOff s with ⟨err, herr, hrun⟩ | ⟨r, m, t, hok, -, -, -⟩
  · cases h.symm.trans herr
    exact hrun
  · cases h.symm.trans hok

/-- XF_BLOCK with checks passed writes the session's output to the output buffer (rule R232). -/
theorem exec_xfBlock_of_ok {s : State} {din dout : Descriptor} {inOff inCount outOff : Word} {r : Span × Nat × Nat}
    {t : Session × List Block} (h : blockChecks s din inOff inCount dout outOff = .ok r)
    (ht : s.xf.transform s.key (blocksOf (r.1.len / 16) (s.mem.bytes r.1.handle r.1.off r.1.len)) = t) :
    ∃ m, s.mem.write r.2.1 r.2.2 (bytesOf t.2) = some m ∧ exec (.xfBlock din inOff inCount dout outOff) s =
      respond (BitVec.ofNat 32 (16 * t.2.length)) []
        (((s.withMem m).withXf { t.1 with lc := .transforming }).withAesState Block.zero) := by
  rcases execXfBlock_cases din inOff inCount dout outOff s with ⟨err, herr, -⟩ | ⟨r', m, t', hok, ht', hm, hrun⟩
  · cases h.symm.trans herr
  · cases h.symm.trans hok
    cases ht'.trans ht
    exact ⟨m, hm, hrun⟩

theorem exec_xfFinal_of_error {s : State} {d : Descriptor} {off cnt : Word} {e : Err}
    (h : finalChecks s d off cnt = .error e) : exec (.xfFinal d off cnt) s = .next (failed s e) := by
  rcases execXfFinal_cases d off cnt s with ⟨err, herr, hrun⟩ | ⟨r, err, hok, -, -⟩ | ⟨r, t, hok, -, -⟩
  · cases h.symm.trans herr
    exact hrun
  · cases h.symm.trans hok
  · cases h.symm.trans hok

theorem blockChecks_of_openSession_error {s : State} {e : Err} (h : openSession s.xf = .error e) (din dout : Descriptor)
    (inOff inCount outOff : Word) : blockChecks s din inOff inCount dout outOff = .error e := by
  simp only [blockChecks, h]

theorem blockChecks_of_isOpen {s : State} (h : IsOpen s.xf) (din dout : Descriptor) (inOff inCount outOff : Word) :
    blockChecks s din inOff inCount dout outOff = checkBlockRanges s.mem din inOff inCount dout outOff := by
  simp only [blockChecks, openSession_of_isOpen h]

theorem finalChecks_of_openSession_error {s : State} {e : Err} (h : openSession s.xf = .error e) (d : Descriptor)
    (off cnt : Word) : finalChecks s d off cnt = .error e := by
  simp only [finalChecks, h]

/-! ### The session machine (rule R220) -/

theorem createChecks_of_session {s : State} (h : s.xf.lc ≠ .disposed) (k v : Descriptor) :
    createChecks s k v = .error .sequence :=
  if_pos h

theorem createChecks_of_disposed {s : State} (h : s.xf.lc = .disposed) (k v : Descriptor) :
    createChecks s k v = checkKeyIv s.mem k v :=
  if_neg (not_not.mpr h)

/-- The two ways not to be open (rule R266). -/
theorem openSession_of_not_isOpen {x : Session} (h : ¬IsOpen x) :
    (x.lc = .disposed ∧ openSession x = .error .disposed) ∨ (x.lc = .finalized ∧ openSession x = .error .sequence) := by
  cases hlc : x.lc with
  | disposed => exact .inl ⟨rfl, openSession_of_disposed hlc⟩
  | fresh => exact absurd (.inl hlc) h
  | transforming => exact absurd (.inr hlc) h
  | finalized => exact .inr ⟨rfl, openSession_of_finalized hlc⟩

theorem exec_of_not_xfAllowed {i : Instr} {s : State} (h : ¬xfAllowed i s.xf.lc) :
    exec i s = .next (failed s (xfRefusal i s.xf.lc)) := by
  cases i with
  | aesKeyexp k => exact exec_aesKeyexp_of_error (keyexpChecks_of_session h k)
  | xfCreateEnc k v => exact xfCreate_of_error (createChecks_of_session h k v) _
  | xfCreateDec k v => exact xfCreate_of_error (createChecks_of_session h k v) _
  | xfBlock din inOff inCount dout outOff =>
    rcases openSession_of_not_isOpen h with ⟨hlc, hopen⟩ | ⟨hlc, hopen⟩ <;> rw [hlc] <;>
      exact exec_xfBlock_of_error (blockChecks_of_openSession_error hopen ..)
  | xfFinal d off cnt =>
    rcases openSession_of_not_isOpen h with ⟨hlc, hopen⟩ | ⟨hlc, hopen⟩ <;> rw [hlc] <;>
      exact exec_xfFinal_of_error (finalChecks_of_openSession_error hopen ..)
  | _ => exact absurd trivial h

theorem xfArc_of_crcRole {i : Instr} (h : crcRole i ≠ none) (lc : XfLc) : xfArc i lc = lc := by
  cases i with
  | xfCreateEnc | xfCreateDec | xfBlock | xfFinal | xfDispose => exact absurd rfl h
  | _ => rfl

theorem xfArc_of_md5Role {i : Instr} (h : md5Role i ≠ none) (lc : XfLc) : xfArc i lc = lc := by
  cases i with
  | xfCreateEnc | xfCreateDec | xfBlock | xfFinal | xfDispose => exact absurd rfl h
  | _ => rfl

/-- Where a completed command leaves XF_LC. -/
theorem Effect.xf_lc {i : Instr} {s u : State} (h : Effect i s u) : u.xf.lc = xfArc i s.xf.lc := by
  cases h with
  | crc16 hi | crc32 hi | xcrc hi => exact (xfArc_of_crcRole (hi ▸ nofun) _).symm
  | md5 hi => exact (xfArc_of_md5Role (hi ▸ nofun) _).symm
  | xfFinal hlc ht => exact (Session.finish_fields ht).1
  | _ => rfl

/-- Settles O18: an error changes the response only; a success is one of the effects, and not the refusal that a state
without an arc answers. -/
theorem sessionLifecycleArcs : Obligations.SessionLifecycleArcs := by
  unfold Obligations.SessionLifecycleArcs
  refine ⟨fun i s t h hok => ?success, fun i s t h hfail => ?failure, fun i s => exec_of_not_xfAllowed,
    fun s => ⟨_, rfl, ⟨0, [], rfl⟩, rfl⟩⟩
  case success =>
    obtain ⟨v, out, hresp⟩ := hok
    constructor
    · by_contra hnot
      cases (exec_of_not_xfAllowed hnot).symm.trans h
      cases hresp
    · rcases exec_next h with ⟨e, -, rfl⟩ | ⟨v', out', u, hu, rfl⟩
      · cases hresp
      · exact hu.effect.xf_lc
  case failure =>
    rcases exec_next h with ⟨e, -, rfl⟩ | ⟨v, out, u, hu, rfl⟩
    · rfl
    · exact absurd ⟨v, out, rfl⟩ hfail

/-! ### Session creation (rules R224 to R227) -/

theorem checkKeyIv_of_isNull {m : Memory} {k v : Descriptor} (h : IsNull m k ∨ IsNull m v) :
    checkKeyIv m k v = .error (.arg .null) := by
  rcases h with h | h
  · simp only [checkKeyIv, namedBuffer_of_isNull h]
  · simp only [checkKeyIv, namedBuffer_of_isNull h]
    cases namedBuffer m k <;> rfl

theorem checkKeyIv_of_not_mem {m : Memory} {k v : Descriptor} (hk : ¬IsNull m k) (hv : ¬IsNull m v)
    (hlen : lenOf m k ∉ [16, 24, 32]) : checkKeyIv m k v = .error (.arg .keylen) := by
  simp only [checkKeyIv, namedBuffer_of_not_isNull hk, namedBuffer_of_not_isNull hv, checkKeyLength_of_not_mem hlen]

theorem checkKeyIv_of_mem {m : Memory} {k v : Descriptor} (hk : ¬IsNull m k) (hv : ¬IsNull m v)
    (hlen : lenOf m k ∈ [16, 24, 32]) :
    checkKeyIv m k v = .ok ((k.handle.toNat, lenOf m k), (v.handle.toNat, lenOf m v)) := by
  simp only [checkKeyIv, namedBuffer_of_not_isNull hk, namedBuffer_of_not_isNull hv, checkKeyLength_of_mem hlen]

theorem getD_bytes_load (l : List Byte) {j : Nat} (hj : j < 16) : (Block.load l).bytes.getD j 0 = l.getD j 0 := by
  interval_cases j <;> rfl

/-- Byte j of FB after creation: the IV's, or 0 behind its end (rule R225). -/
theorem getD_bytes_ivToBlock (m : Memory) (h n : Nat) {j : Nat} (hj : j < 16) :
    (ivToBlock (m.bytes h 0 (min n 16))).bytes.getD j 0 = if j < n then m.byte h j else 0 := by
  rw [ivToBlock, getD_bytes_load _ hj, getD_append_zeros]
  split
  · rw [Memory.bytes_getD _ _ _ _ _ (by omega), Nat.zero_add]
  · rw [List.getD_eq_default _ _ (by rw [Memory.bytes_length]; omega)]

/-- Settles O48: the checks of rule R224 one after the other, the same for both directions. -/
theorem xfCreateStartsASession : Obligations.XfCreateStartsASession := by
  unfold Obligations.XfCreateStartsASession
  intro s k v
  refine ⟨fun hlc => ?session, fun hlc hnull => ?null, fun hlc hk hv hlen => ?keylen, fun hlc hk hv hlen => ?created⟩
  case session =>
    have hchecks := createChecks_of_session hlc k v
    exact ⟨xfCreate_of_error hchecks _, xfCreate_of_error hchecks _⟩
  case null =>
    have hchecks := (createChecks_of_disposed hlc k v).trans (checkKeyIv_of_isNull hnull)
    exact ⟨xfCreate_of_error hchecks _, xfCreate_of_error hchecks _⟩
  case keylen =>
    have hchecks := (createChecks_of_disposed hlc k v).trans (checkKeyIv_of_not_mem hk hv hlen)
    exact ⟨xfCreate_of_error hchecks _, xfCreate_of_error hchecks _⟩
  case created =>
    have hchecks := (createChecks_of_disposed hlc k v).trans (checkKeyIv_of_mem hk hv hlen)
    exact ⟨_, fun j hj => getD_bytes_ivToBlock _ _ _ hj, xfCreate_of_ok hchecks _, xfCreate_of_ok hchecks _⟩

/-! ### The checks of XF_BLOCK (rules R232, R233) -/

theorem rangesIntersect_eq_true_iff (a b n : Int) : rangesIntersect a b n = true ↔ 0 < n ∧ a < b + n ∧ b < a + n := by
  simp [rangesIntersect]

theorem checkBlockRanges_of_isNull {m : Memory} {din dout : Descriptor} (h : IsNull m din ∨ IsNull m dout)
    (inOff inCount outOff : Word) : checkBlockRanges m din inOff inCount dout outOff = .error (.arg .null) := by
  rcases h with h | h
  · simp only [checkBlockRanges, namedBuffer_of_isNull h]
  · simp only [checkBlockRanges, namedBuffer_of_isNull h]
    cases namedBuffer m din <;> rfl

/-- The checks on two buffers that exist, in the order of rule R232. -/
theorem checkBlockRanges_of_not_isNull {m : Memory} {din dout : Descriptor} {inOff inCount outOff : Word}
    (hin : ¬IsNull m din) (hout : ¬IsNull m dout) :
    checkBlockRanges m din inOff inCount dout outOff =
      if inOff.toInt < 0 ∨ inCount.toInt < 0 ∨ outOff.toInt < 0 then .error (.arg .neg)
      else if inOff.toInt + inCount.toInt > lenOf m din then .error (.arg .bounds)
      else if outOff.toInt + inCount.toInt > lenOf m dout then .error (.arg .bounds)
      else if din.handle = dout.handle ∧ 0 < inCount.toInt ∧ inOff.toInt < outOff.toInt + inCount.toInt ∧
        outOff.toInt < inOff.toInt + inCount.toInt then .error (.arg .overlap)
      else if inCount.toInt % 16 ≠ 0 then .error .length
      else .ok (⟨din.handle.toNat, inOff.toInt.toNat, inCount.toInt.toNat⟩, dout.handle.toNat, outOff.toInt.toNat) := by
  simp only [checkBlockRanges, namedBuffer_of_not_isNull hin, namedBuffer_of_not_isNull hout, s32_eq_toInt,
    rangesIntersect_eq_true_iff, BitVec.toNat_inj]

/-- Settles O49: the checks follow each other as the clauses do. -/
theorem xfBlockErrorsInOrder : Obligations.XfBlockErrorsInOrder := by
  unfold Obligations.XfBlockErrorsInOrder
  rintro s din dout inOff inCount outOff r rfl
  refine ⟨fun hlc => ?disposed, fun hlc => ?finalized, fun hopen hnull => ?null, fun hopen hin hout => ?named⟩
  case disposed => exact exec_xfBlock_of_error (blockChecks_of_openSession_error (openSession_of_disposed hlc) ..)
  case finalized => exact exec_xfBlock_of_error (blockChecks_of_openSession_error (openSession_of_finalized hlc) ..)
  case null =>
    exact exec_xfBlock_of_error ((blockChecks_of_isOpen hopen ..).trans (checkBlockRanges_of_isNull hnull ..))
  case named =>
    have hchecks := (blockChecks_of_isOpen hopen din dout inOff inCount outOff).trans
      (checkBlockRanges_of_not_isNull hin hout)
    refine ⟨fun hneg => ?neg, fun h1 h2 h3 => ⟨fun hbounds => ?bounds, fun hbin hbout => ⟨fun hover => ?overlap,
      fun hover => ⟨fun hlen => ?length, fun hlen => ?success⟩⟩⟩⟩
    case neg =>
      rw [if_pos hneg] at hchecks
      exact exec_xfBlock_of_error hchecks
    all_goals rw [if_neg (by omega)] at hchecks
    case bounds =>
      refine exec_xfBlock_of_error (hchecks.trans ?_)
      split
      · rfl
      · rw [if_pos (by omega)]
    all_goals rw [if_neg (by omega), if_neg (by omega)] at hchecks
    case overlap =>
      rw [if_pos hover] at hchecks
      exact exec_xfBlock_of_error hchecks
    all_goals rw [if_neg hover] at hchecks
    case length =>
      rw [if_pos hlen] at hchecks
      exact exec_xfBlock_of_error hchecks
    case success =>
      rw [if_neg (not_not.mpr hlen)] at hchecks
      obtain ⟨m, -, hrun⟩ := exec_xfBlock_of_ok hchecks rfl
      exact ⟨_, _, hrun, rfl, rfl⟩

end Sys2Proof.Machine
end

section
/-! A session's blocks by their place in the sequence: XF_BLOCK and XF_FINAL in either direction (`44_transform.md` rules
R228 to R237). -/

namespace Sys2Proof.Machine

open Sys2Proof.Spec

/-! ### Blocks of a byte sequence -/

theorem Block.load_take (l : List Byte) : Block.load (l.take 16) = Block.load l := by
  simp [Block.load, quadAt, List.getD_eq_getElem?_getD]

theorem blockAt_zero (l : List Byte) : blockAt l 0 = Block.load l := Block.load_take l

theorem blockAt_drop (l : List Byte) (j : Nat) : blockAt (l.drop 16) j = blockAt l (j + 1) := by
  rw [blockAt, blockAt, List.drop_drop, Nat.mul_succ, Nat.add_comm]

theorem blocksOf_eq_map_blockAt (k : Nat) (l : List Byte) : blocksOf k l = (List.range k).map (blockAt l) := by
  induction k generalizing l with
  | zero => rfl
  | succ k ih =>
    rw [blocksOf, ih, List.range_succ_eq_map, List.map_cons, List.map_map, blockAt_zero]
    exact congrArg (_ :: ·) (List.map_congr_left fun j _ => blockAt_drop l j)

theorem blocksOf_succ_eq_concat (n : Nat) (l : List Byte) : blocksOf (n + 1) l = blocksOf n l ++ [blockAt l n] := by
  simp only [blocksOf_eq_map_blockAt, List.range_succ, List.map_append, List.map_singleton]

theorem take_drop_bytesOf (l : List Block) (j : Nat) (hj : j < l.length) :
    ((bytesOf l).drop (16 * j)).take 16 = l[j].bytes := by
  induction l generalizing j with
  | nil => simp at hj
  | cons b t ih =>
    cases j with
    | zero => rfl
    | succ j =>
      have hdrop : (b.bytes ++ bytesOf t).drop (16 * (j + 1)) = (bytesOf t).drop (16 * j) := by
        rw [Nat.mul_succ, Nat.add_comm, ← List.drop_drop]
        rfl
      rw [bytesOf, hdrop, ih j (by simpa using hj)]
      rfl

theorem isBlocks_bytesOf_map_range (n : Nat) (b : Nat → Block) : IsBlocks (bytesOf ((List.range n).map b)) n b := by
  refine ⟨by simp, fun j hj => ?_⟩
  rw [take_drop_bytesOf _ j (by simpa using hj)]
  simp

/-! ### Blocks of a host buffer -/

theorem Memory.take_drop_bytes (m : Memory) (h i : Nat) {n a b : Nat} (hab : a + b ≤ n) :
    ((m.bytes h i n).drop a).take b = m.bytes h (i + a) b := by
  obtain ⟨c, rfl⟩ := Nat.exists_eq_add_of_le hab
  rw [Nat.add_assoc, Memory.bytes_append, Memory.bytes_append, List.drop_left' (Memory.bytes_length ..),
    List.take_left' (Memory.bytes_length ..)]

theorem blockAt_bytes (m : Memory) (h i : Nat) {n j : Nat} (hj : j < n) :
    blockAt (m.bytes h i (16 * n)) j = Block.load (m.bytes h (i + 16 * j) 16) := by
  rw [blockAt, Memory.take_drop_bytes _ _ _ (by omega)]

theorem blocksOf_bytes {m : Memory} {h i : Nat} {p : Nat → Block}
    (hp : ∀ j, p j = Block.load (m.bytes h (i + 16 * j) 16)) (n : Nat) :
    blocksOf n (m.bytes h i (16 * n)) = (List.range n).map p := by
  rw [blocksOf_eq_map_blockAt]
  refine List.map_congr_left fun j hj => ?_
  rw [blockAt_bytes _ _ _ (List.mem_range.mp hj), hp]

/-- What MemWrite wrote reads back. -/
theorem Memory.bytes_write {m m' : Memory} (hm : m.wf) {h i : Nat} {v : List Byte} (e : m.write h i v = some m') :
    m'.bytes h i v.length = v := by
  obtain ⟨len, hlen, hle, -⟩ := (m.write_eq_some_iff h i v m').mp e
  have hspan := (wf_bufLen hm hlen).2
  refine List.ext_getElem (Memory.bytes_length ..) fun j h1 h2 => ?_
  rw [← List.getD_eq_getElem _ 0 h1, ← List.getD_eq_getElem _ 0 h2, Memory.bytes_getD _ _ _ _ _ h2,
    Memory.byte_write hm e _ _ (by omega), if_pos ⟨rfl, by omega, by omega⟩, Nat.add_sub_cancel_left]

theorem Memory.bytes_write_blocks {m m' : Memory} (hm : m.wf) {h o n : Nat} {b : Nat → Block}
    (e : m.write h o (bytesOf ((List.range n).map b)) = some m') {j : Nat} (hj : j < n) :
    m'.bytes h (o + 16 * j) 16 = (b j).bytes := by
  have hread := Memory.bytes_write hm e
  obtain ⟨hlen, hblock⟩ := isBlocks_bytesOf_map_range n b
  rw [← hblock j hj, ← hread, hlen, Memory.take_drop_bytes _ _ _ (by omega)]

/-! ### Chaining by place (rules R228 to R230) -/

/-- A chain of block operations whose feedback registers and outputs are known place by place. -/
theorem runBlocks_map_range {op : Block → Block → Block × Block} {fb x out : Nat → Block}
    (h : ∀ j, op (fb j) (x j) = (out j, fb (j + 1))) (n : Nat) :
    runBlocks op (fb 0) ((List.range n).map x) = ((List.range n).map out, fb n) := by
  induction n with
  | zero => rfl
  | succ n ih => simp [List.range_succ, runBlocks_append, ih, runBlocks, h]

section

variable {smode : Option CipherMode} {mode : CipherMode} (hmode : smode = some mode) (k : KeySchedule) (fb : Block)
include hmode

theorem encBlocks_map_range (p : Nat → Block) (n : Nat) : encBlocks k smode fb ((List.range n).map p) =
    ((List.range n).map (encOut k mode fb p), encFb k mode fb p n) := by
  subst hmode
  refine runBlocks_map_range (fb := encFb k mode fb p) (fun j => ?_) n
  cases mode <;> rfl

theorem decBlocks_map_range (c : Nat → Block) (n : Nat) : decBlocks k smode fb ((List.range n).map c) =
    ((List.range n).map (decOut k mode fb c), decFb mode fb c n) := by
  subst hmode
  have hzero : decFb mode fb c 0 = fb := by cases mode <;> rfl
  have hchain := runBlocks_map_range (op := decBlock k (some mode)) (fb := decFb mode fb c) (x := c)
    (out := decOut k mode fb c) (fun j => by cases mode <;> rfl) n
  rwa [hzero] at hchain

end

/-! ### What XF_BLOCK does to a session -/

section Transform

variable {x : Session}

theorem Session.transform_encrypt (hdir : x.dir = .encrypt) (k : KeySchedule) (l : List Block) :
    x.transform k l =
      ({ x with fb := (encBlocks k x.smode x.fb l).2 }, (encBlocks k x.smode x.fb l).1) := by
  simp only [Session.transform, hdir]

theorem Session.transform_decrypt (hdir : x.dir = .decrypt) (hpad : x.spad ≠ some .pkcs7) (k : KeySchedule)
    (l : List Block) : x.transform k l =
      ({ x with fb := (decBlocks k x.smode x.fb l).2 }, (decBlocks k x.smode x.fb l).1) := by
  unfold Session.transform
  split
  next h => rw [hdir] at h; cases h
  next h => exact absurd h hpad
  next => rfl

theorem Session.transform_nil (hdir : x.dir = .decrypt) (hpad : x.spad = some .pkcs7) (k : KeySchedule) :
    x.transform k [] = (x, []) := by
  simp [Session.transform, hdir, hpad]

/-- The hold-back of rule R231: the last block waits. -/
theorem Session.transform_concat (hdir : x.dir = .decrypt) (hpad : x.spad = some .pkcs7) (k : KeySchedule)
    (l : List Block) (last : Block) : x.transform k (l ++ [last]) =
      ({ x with fb := (decBlocks k x.smode x.fb (x.held ++ l)).2, hold := last, holdValid := true },
        (decBlocks k x.smode x.fb (x.held ++ l)).1) := by
  simp [Session.transform, hdir, hpad]

end Transform

/-! ### The waiting ciphertext (rule R231) -/

theorem Session.held_length (x : Session) : x.held.length = if x.holdValid then 1 else 0 := by
  unfold Session.held
  split <;> rfl

theorem waiting_length (x : Session) (data : List Byte) :
    (waiting x data).length = 16 * x.held.length + data.length := by
  rw [Session.held_length, waiting, List.length_append]
  split <;> rfl

/-- The held block and the new ones are the blocks of the waiting bytes. -/
theorem Session.held_append_blocksOf (x : Session) (n : Nat) (data : List Byte) :
    x.held ++ blocksOf n data = blocksOf (x.held.length + n) (waiting x data) := by
  unfold Session.held waiting
  split
  · exact (blocksOf_append 1 n x.hold.bytes data rfl).symm
  · simp

/-! ### XF_BLOCK -/

theorem ofNat_of_inRange {m : Memory} {d : Descriptor} {off cnt : Word} {h o n : Nat} (hr : InRange m d off cnt h o n) :
    BitVec.ofNat 32 n = cnt := by
  obtain ⟨-, -, -, hcnt, -⟩ := hr
  rw [← BitVec.ofInt_natCast, ← hcnt, BitVec.ofInt_toInt]

theorem lt_of_inRange {m : Memory} {d : Descriptor} {off cnt : Word} {h o n : Nat} (hr : InRange m d off cnt h o n) :
    n < 2 ^ 31 := by
  obtain ⟨-, -, -, hcnt, -⟩ := hr
  have hlt := cnt.toInt_lt
  rw [hcnt] at hlt
  omega

section Operands

variable {s : State} {din dout : Descriptor} {inOff inCount outOff : Word} {hin i n hout o : Nat}
  (hopen : IsOpen s.xf) (hops : BlockOperands s.mem din inOff inCount dout outOff hin i n hout o)
include hopen hops

theorem blockChecks_of_blockOperands :
    blockChecks s din inOff inCount dout outOff = .ok (⟨hin, i, 16 * n⟩, hout, o) := by
  obtain ⟨⟨hvi, rfl, hio, hcnt, nin, hnin, hlein⟩, ⟨hvo, rfl, hoo, -, nout, hnout, hleout⟩, hover⟩ := hops
  rw [blockChecks_of_isOpen hopen]
  refine (checkBlockRanges_eq_ok_iff ..).mpr ⟨hvi, hvo, nin, nout, hnin, hnout, ?_⟩
  simp only [s32_eq_toInt, hio, hcnt, hoo, rangesIntersect_eq_true_iff, Int.toNat_natCast, and_true]
  refine ⟨by omega, by omega, by omega, by omega, by omega, ?_, by omega⟩
  rintro ⟨hd, hpos, h1, h2⟩
  have := hover (congrArg BitVec.toNat hd)
  omega

/-- XF_BLOCK on operands that pass every check: the session's output stands at OUTOFF. -/
theorem exec_xfBlock_of_blockOperands {t : Session × List Block}
    (ht : s.xf.transform s.key (blocksOf n (s.mem.bytes hin i (16 * n))) = t) :
    ∃ m, s.mem.write hout o (bytesOf t.2) = some m ∧ exec (.xfBlock din inOff inCount dout outOff) s =
      respond (BitVec.ofNat 32 (16 * t.2.length)) []
        (((s.withMem m).withXf { t.1 with lc := .transforming }).withAesState Block.zero) :=
  exec_xfBlock_of_ok (blockChecks_of_blockOperands hopen hops) (by simpa using ht)

end Operands

/-- Settles O50: the chain of `encBlock` over the input blocks, written out place by place. -/
theorem xfBlockEncrypts : Obligations.XfBlockEncrypts := by
  unfold Obligations.XfBlockEncrypts
  intro s din dout inOff inCount outOff hin i n hout o mode p hwf hopen hdir hmode hops hp
  have ht := Session.transform_encrypt hdir s.key (blocksOf n (s.mem.bytes hin i (16 * n)))
  rw [blocksOf_bytes hp, encBlocks_map_range hmode, ← blocksOf_bytes hp] at ht
  obtain ⟨m, hm, hrun⟩ := exec_xfBlock_of_blockOperands hopen hops ht
  refine ⟨m, hrun.trans ?_, fun j hj => Memory.bytes_write_blocks hwf hm hj⟩
  rw [List.length_map, List.length_range, ofNat_of_inRange hops.1]
  rfl

/-- Settles O51: without hold-back as O50; with it the blocks decrypted are the first of the waiting ones. -/
theorem xfBlockDecrypts : Obligations.XfBlockDecrypts := by
  unfold Obligations.XfBlockDecrypts
  intro s din dout inOff inCount outOff hin i n hout o mode pad c hwf hopen hdir hmode hpad hops
  refine ⟨fun hne hc => ?plain, fun hpk hn => ?empty, fun hpk hn q hq hc => ?held⟩
  case plain =>
    have ht := Session.transform_decrypt hdir (by simpa [hpad] using hne) s.key
      (blocksOf n (s.mem.bytes hin i (16 * n)))
    rw [blocksOf_bytes hc, decBlocks_map_range hmode, ← blocksOf_bytes hc] at ht
    obtain ⟨m, hm, hrun⟩ := exec_xfBlock_of_blockOperands hopen hops ht
    refine ⟨m, hrun.trans ?_, fun j hj => Memory.bytes_write_blocks hwf hm hj⟩
    rw [List.length_map, List.length_range, ofNat_of_inRange hops.1]
    rfl
  case empty =>
    subst hn
    obtain ⟨m, hm, hrun⟩ := exec_xfBlock_of_blockOperands hopen hops
      (Session.transform_nil hdir (hpk ▸ hpad) s.key)
    obtain ⟨-, -, -, rfl⟩ := (Memory.write_eq_some_iff ..).mp hm
    exact hrun
  case held =>
    obtain ⟨n, rfl⟩ := Nat.exists_eq_add_one.mpr hn
    have hq : s.xf.held.length + n = q := by
      rw [Session.held_length, hq]
      split <;> omega
    have hblocks : blocksOf (n + 1) (s.mem.bytes hin i (16 * (n + 1))) =
        blocksOf n (s.mem.bytes hin i (16 * (n + 1))) ++ [Block.load (s.mem.bytes hin (i + 16 * n) 16)] := by
      rw [blocksOf_succ_eq_concat, blockAt_bytes _ _ _ (Nat.lt_succ_self n)]
    have hwaiting : s.xf.held ++ blocksOf n (s.mem.bytes hin i (16 * (n + 1))) = (List.range q).map c := by
      rw [Session.held_append_blocksOf, hq, blocksOf_eq_map_blockAt, ← funext hc]
    have ht := Session.transform_concat hdir (hpk ▸ hpad) s.key (blocksOf n (s.mem.bytes hin i (16 * (n + 1))))
      (Block.load (s.mem.bytes hin (i + 16 * n) 16))
    rw [← hblocks, hwaiting, decBlocks_map_range hmode] at ht
    obtain ⟨m, hm, hrun⟩ := exec_xfBlock_of_blockOperands hopen hops ht
    refine ⟨m, hrun.trans ?_, fun j hj => Memory.bytes_write_blocks hwf hm hj⟩
    rw [List.length_map, List.length_range]
    rfl

/-! ### The checks of XF_FINAL (rules R235, R236) -/

section Final

variable {s : State} {d : Descriptor} {off cnt : Word} {h o n : Nat}
  (hr : InRange s.mem d off cnt h o n) (hopen : IsOpen s.xf)
include hr hopen

theorem exec_xfFinal_of_length (hwhole : needsWholeBlocks s.xf = true) (hlen : n % 16 ≠ 0) :
    exec (.xfFinal d off cnt) s = .next (failed s .length) := by
  refine exec_xfFinal_of_error ?_
  simp only [finalChecks, openSession_of_isOpen hopen, checkRange_of_inRange hr, hwhole, hlen, ne_eq, not_false_eq_true,
    and_self, if_true]

/-- XF_FINAL past its checks: what the session's end gives, or its error. -/
theorem exec_xfFinal_of_inRange (hlen : needsWholeBlocks s.xf = true → n % 16 = 0) :
    exec (.xfFinal d off cnt) s = orRaise s (s.xf.finish s.key (s.mem.bytes h o n)) fun t =>
      respondBytes t.2 ((s.withXf t.1).withAesState Block.zero) := by
  have hchecks : finalChecks s d off cnt = .ok ⟨h, o, n⟩ := by
    simp only [finalChecks, openSession_of_isOpen hopen, checkRange_of_inRange hr]
    exact if_neg fun hbad => hbad.2 (hlen hbad.1)
  rcases execXfFinal_cases d off cnt s with ⟨e, herr, -⟩ | ⟨r, e, hok, ht, hrun⟩ | ⟨r, t, hok, ht, hrun⟩
  · cases hchecks.symm.trans herr
  · cases hchecks.symm.trans hok
    exact hrun.trans (by rw [ht]; rfl)
  · cases hchecks.symm.trans hok
    exact hrun.trans (by rw [ht]; rfl)

theorem exec_xfFinal_of_finish_ok (hlen : needsWholeBlocks s.xf = true → n % 16 = 0) {t : Session × List Byte}
    (ht : s.xf.finish s.key (s.mem.bytes h o n) = .ok t) : exec (.xfFinal d off cnt) s =
      respond (BitVec.ofNat 32 t.2.length) t.2 ((s.withXf t.1).withAesState Block.zero) := by
  rw [exec_xfFinal_of_inRange hr hopen hlen, ht]
  rfl

theorem exec_xfFinal_of_finish_error (hlen : needsWholeBlocks s.xf = true → n % 16 = 0) {e : Err}
    (ht : s.xf.finish s.key (s.mem.bytes h o n) = .error e) :
    exec (.xfFinal d off cnt) s = .next (failed s e) := by
  rw [exec_xfFinal_of_inRange hr hopen hlen, ht]
  rfl

end Final

theorem needsWholeBlocks_of_decrypt {x : Session} (h : x.dir = .decrypt) : needsWholeBlocks x = true := by
  simp [needsWholeBlocks, h]

theorem needsWholeBlocks_of_encrypt {x : Session} {pad : PaddingMode} (hdir : x.dir = .encrypt)
    (hpad : x.spad = some pad) : needsWholeBlocks x = true ↔ pad = .noPad := by
  simp [needsWholeBlocks, hdir, hpad]

/-! ### Padding (rule R234) -/

section

variable {spad : Option PaddingMode} {pad : PaddingMode} {data : List Byte} (hpad : spad = some pad)
  (h : pad = .noPad → data.length % 16 = 0)
include hpad h

theorem padded_padData : Padded pad data (padData spad data) := by
  subst hpad
  cases pad with
  | noPad => exact ⟨rfl, h rfl⟩
  | pkcs7 => rfl
  | zeros =>
    by_cases hzero : data.length % 16 = 0
    · exact ⟨0, by simp [padData, hzero], by omega, by simp [padData, hzero]⟩
    · refine ⟨16 - data.length % 16, by simp [padData, hzero, Machine.zeros], by omega, ?_⟩
      simp only [padData, if_neg hzero, Machine.zeros, List.length_append, List.length_replicate]
      omega

theorem length_padData_mod : (padData spad data).length % 16 = 0 := by
  have hpadded := padded_padData hpad h
  cases pad with
  | noPad => rw [hpadded.1, hpadded.2]
  | pkcs7 =>
    rw [show padData spad data = _ from hpadded, List.length_append, List.length_replicate]
    omega
  | zeros =>
    obtain ⟨n, -, -, hmod⟩ := hpadded
    exact hmod

end

/-! ### What XF_FINAL does to a session -/

/-- A decrypt session after XF_FINAL (rule R236), with the last chaining value. -/
def Session.ended (x : Session) (fb : Block) : Session :=
  { x with fb := fb, hold := Block.zero, holdValid := false, lc := .finalized }

section Finish

variable {x : Session} (k : KeySchedule) (data : List Byte)

theorem Session.finish_encrypt (hdir : x.dir = .encrypt) : x.finish k data = .ok (x.finishEncrypt k data) := by
  simp only [Session.finish, hdir]

theorem Session.finish_eq_finishDecrypt (hdir : x.dir = .decrypt) : x.finish k data = x.finishDecrypt k data := by
  simp only [Session.finish, hdir]

theorem Session.finish_decrypt (hdir : x.dir = .decrypt) (hpad : x.spad ≠ some .pkcs7) : x.finish k data =
    .ok (x.ended (decBlocks k x.smode x.fb (x.held ++ blocksOf (data.length / 16) data)).2,
      bytesOf (decBlocks k x.smode x.fb (x.held ++ blocksOf (data.length / 16) data)).1) := by
  rw [Session.finish_eq_finishDecrypt _ _ hdir, Session.finishDecrypt, if_neg hpad]
  rfl

theorem Session.finish_pkcs7 (hdir : x.dir = .decrypt) (hpad : x.spad = some .pkcs7) : x.finish k data =
    (unpadPkcs7 (bytesOf (decBlocks k x.smode x.fb (x.held ++ blocksOf (data.length / 16) data)).1)).map
      (x.ended (decBlocks k x.smode x.fb (x.held ++ blocksOf (data.length / 16) data)).2, ·) := by
  rw [Session.finish_eq_finishDecrypt _ _ hdir, Session.finishDecrypt, if_pos hpad]
  cases unpadPkcs7 (bytesOf (decBlocks k x.smode x.fb (x.held ++ blocksOf (data.length / 16) data)).1) <;> rfl

end Finish

/-- Settles O52: the padded data is whole blocks, and the response is their chain, place by place. -/
theorem xfFinalEncrypts : Obligations.XfFinalEncrypts := by
  unfold Obligations.XfFinalEncrypts
  intro s d off cnt h o n mode pad hr hopen hdir hmode hpad
  have hwhole := needsWholeBlocks_of_encrypt hdir hpad
  refine ⟨fun hnone hlen => exec_xfFinal_of_length hr hopen (hwhole.mpr hnone) hlen, fun hlen => ?_⟩
  have hdata : pad = .noPad → (s.mem.bytes h o n).length % 16 = 0 := by rwa [Memory.bytes_length]
  have hq := length_padData_mod hpad hdata
  refine ⟨_, _, _, padded_padData hpad hdata, (Nat.mul_div_cancel' (Nat.dvd_of_mod_eq_zero hq)).symm,
    isBlocks_bytesOf_map_range _ _, ?_⟩
  rw [exec_xfFinal_of_finish_ok hr hopen (fun hw => hlen (hwhole.mp hw)) (Session.finish_encrypt _ _ hdir),
    Session.finishEncrypt, blocksOf_eq_map_blockAt, encBlocks_map_range hmode]
  simp only [bytesOf_length, List.length_map, List.length_range]
  rfl

/-! ### Removing PKCS7 padding (rule R237) -/

theorem unpadPkcs7_of_padding {out : List Byte} {last : Byte} (h : out.getLast? = some last) (hge : 1 ≤ last.toNat)
    (hle : last.toNat ≤ 16) : unpadPkcs7 out = .ok (out.take (out.length - last.toNat)) :=
  (unpadPkcs7_eq_ok_iff out _).mpr ⟨last, h, hge, hle, rfl⟩

theorem unpadPkcs7_of_not_padding {out : List Byte} {last : Byte} (h : out.getLast? = some last)
    (hbad : last.toNat = 0 ∨ 16 < last.toNat) : unpadPkcs7 out = .error .padding := by
  simp only [unpadPkcs7, h]
  exact if_neg (by omega)

/-- Settles O53: the blocks of the waiting bytes are decrypted place by place; PKCS7 adds what `unpadPkcs7` makes of the
last byte. -/
theorem xfFinalDecrypts : Obligations.XfFinalDecrypts := by
  unfold Obligations.XfFinalDecrypts
  intro s d off cnt h o n mode pad hr hopen hdir hmode hpad
  have hwhole := needsWholeBlocks_of_decrypt hdir
  refine ⟨exec_xfFinal_of_length hr hopen hwhole, ?_⟩
  rintro hlen q rfl
  have hq : (waiting s.xf (s.mem.bytes h o n)).length = 16 * (s.xf.held.length + n / 16) := by
    rw [waiting_length, Memory.bytes_length]
    omega
  have hblocks : s.xf.held ++ blocksOf ((s.mem.bytes h o n).length / 16) (s.mem.bytes h o n) =
      (List.range (s.xf.held.length + n / 16)).map (blockAt (waiting s.xf (s.mem.bytes h o n))) := by
    rw [Session.held_append_blocksOf, Memory.bytes_length, blocksOf_eq_map_blockAt]
  refine ⟨_, _, hq, isBlocks_bytesOf_map_range _ _, fun hne => ?plain, fun hpk hempty => ?empty,
    fun hpk last hlast => ⟨fun hbad => ?bad, fun hge hle => ?cut⟩⟩
  case plain =>
    have ht := Session.finish_decrypt s.key (s.mem.bytes h o n) hdir (by simpa [hpad] using hne)
    rw [hblocks, decBlocks_map_range hmode] at ht
    rw [exec_xfFinal_of_finish_ok hr hopen (fun _ => hlen) ht]
    simp only [bytesOf_length, List.length_map, List.length_range]
    rfl
  all_goals
    have ht := Session.finish_pkcs7 s.key (s.mem.bytes h o n) hdir (hpk ▸ hpad)
    rw [hblocks, decBlocks_map_range hmode] at ht
  case empty =>
    have hzero : s.xf.held.length + n / 16 = 0 := by
      rw [hempty] at hq
      simpa using hq.symm
    rw [hzero] at ht
    exact exec_xfFinal_of_finish_error hr hopen (fun _ => hlen) ht
  case bad =>
    rw [unpadPkcs7_of_not_padding hlast hbad] at ht
    exact exec_xfFinal_of_finish_error hr hopen (fun _ => hlen) ht
  case cut =>
    rw [unpadPkcs7_of_padding hlast hge hle] at ht
    rw [exec_xfFinal_of_finish_ok hr hopen (fun _ => hlen) ht]
    simp only [bytesOf_length, List.length_map, List.length_range, List.length_take, Nat.sub_le, Nat.min_eq_left]
    rfl

end Sys2Proof.Machine
end

section
/-! Decryption undoes encryption, and a stream cut in two is the stream (`44_transform.md` rule R238). -/

namespace Sys2Proof.Machine

open Sys2Proof.Spec

/-! ### The round trip -/

theorem decBlocks_encBlocks (k : KeySchedule) (smode : Option CipherMode) (fb : Block) (l : List Block) :
    decBlocks k smode fb (encBlocks k smode fb l).1 = (l, (encBlocks k smode fb l).2) := by
  induction l generalizing fb with
  | nil => rfl
  | cons p t ih =>
    have hblock : decBlock k smode fb (encBlock k smode fb p).1 = (p, (encBlock k smode fb p).2) := by
      unfold encBlock decBlock
      split <;> simp [invCipher_cipher, Block.xor_xor_cancel_right]
    have ht := ih (encBlock k smode fb p).2
    simp only [decBlocks, encBlocks] at ht
    simp only [decBlocks, encBlocks, runBlocks, hblock, ht]

/-- The blocks of an encrypt session's last output decrypt to the padded data. -/
theorem Session.decBlocks_finishEncrypt {x : Session} {data : List Byte} (k : KeySchedule)
    (hq : (padData x.spad data).length % 16 = 0) :
    bytesOf (decBlocks k x.smode x.fb
      (blocksOf ((x.finishEncrypt k data).2.length / 16) (x.finishEncrypt k data).2)).1 = padData x.spad data := by
  have hblocks := blocksOf_bytesOf
    (encBlocks k x.smode x.fb (blocksOf ((padData x.spad data).length / 16) (padData x.spad data))).1 []
  rw [List.append_nil] at hblocks
  rw [Session.finishEncrypt, bytesOf_length, Nat.mul_div_cancel_left _ (by omega), hblocks, decBlocks_encBlocks]
  exact bytesOf_blocksOf _ _ (by omega)

theorem unpadPkcs7_padData (data : List Byte) : unpadPkcs7 (padData (some .pkcs7) data) = .ok data := by
  have hmod : data.length % 16 < 16 := Nat.mod_lt _ (by omega)
  have hbyte : (BitVec.ofNat 8 (16 - data.length % 16)).toNat = 16 - data.length % 16 := by
    rw [BitVec.toNat_ofNat]
    omega
  refine (unpadPkcs7_eq_ok_iff _ _).mpr ⟨BitVec.ofNat 8 (16 - data.length % 16), ?_, by omega, by omega, ?_⟩
  · rw [padData, List.getLast?_append, List.getLast?_replicate, if_neg (by omega)]
    rfl
  · rw [padData, hbyte, List.length_append, List.length_replicate, Nat.add_sub_cancel, List.take_left]

/-- The end of a decrypt session with the same mode, padding and chaining value, on the output of an encrypt session. -/
theorem Session.finish_finishEncrypt {x y : Session} {pad : PaddingMode} {data : List Byte} (k : KeySchedule)
    (hpad : x.spad = some pad) (hq : (padData x.spad data).length % 16 = 0)
    (hy : y = { x with dir := .decrypt, hold := Block.zero, holdValid := false }) :
    ∃ z plain, y.finish k (x.finishEncrypt k data).2 = .ok (z, plain) ∧
      (pad = .pkcs7 → plain = data) ∧ (pad ≠ .pkcs7 → plain = padData x.spad data) := by
  have hplain := Session.decBlocks_finishEncrypt k hq
  subst hy
  by_cases hpk : pad = .pkcs7
  · have ht := Session.finish_pkcs7 (x := { x with dir := .decrypt, hold := Block.zero, holdValid := false }) k
      (x.finishEncrypt k data).2 rfl (hpk ▸ hpad)
    have hunpad := unpadPkcs7_padData data
    rw [← hpk, ← hpad, ← hplain] at hunpad
    exact ⟨_, data, ht.trans (congrArg _ hunpad), fun _ => rfl, fun hne => absurd hpk hne⟩
  · exact ⟨_, _, Session.finish_decrypt _ _ rfl (by simpa [hpad] using hpk), fun h => absurd h hpk, fun _ => hplain⟩

/-- Settles O54: the decrypt session's blocks are the encrypt session's, so its bytes are the padded data. -/
theorem decryptOfEncryptIsThePlaintext : Obligations.DecryptOfEncryptIsThePlaintext := by
  unfold Obligations.DecryptOfEncryptIsThePlaintext
  intro s u t d d' off cnt off' cnt' v h o n h' o' n' mode pad out hr hopen hdir hmode hpad hexec hresp hkey hxf hr'
    hout
  have hwhole := needsWholeBlocks_of_encrypt hdir hpad
  have hlen : pad = .noPad → n % 16 = 0 := by
    intro hnone
    by_contra hbad
    cases (exec_xfFinal_of_length hr hopen (hwhole.mpr hnone) hbad).symm.trans hexec
    cases hresp
  have hdata : pad = .noPad → (s.mem.bytes h o n).length % 16 = 0 := by rwa [Memory.bytes_length]
  have hq := length_padData_mod hpad hdata
  cases (exec_xfFinal_of_finish_ok hr hopen (fun hw => hlen (hwhole.mp hw))
    (Session.finish_encrypt _ _ hdir)).symm.trans hexec
  cases hresp
  obtain ⟨z, plain, hfin, hpk, hne⟩ := Session.finish_finishEncrypt s.key hpad hq hxf
  rw [← hout, ← hkey] at hfin
  have hn' : n' % 16 = 0 := by
    rw [← Memory.bytes_length u.mem h' o' n', hout, Session.finishEncrypt, bytesOf_length]
    omega
  refine ⟨_, plain, exec_xfFinal_of_finish_ok hr' (hxf ▸ hopen) (fun _ => hn') hfin, rfl, fun hz => ?_, fun hz => ?_⟩
  · cases pad with
    | noPad => rw [hne nofun, hpad]; rfl
    | pkcs7 => exact hpk rfl
    | zeros => exact absurd rfl hz
  · subst hz
    rw [hne nofun]
    exact padded_padData hpad hdata

/-! ### A stream cut in two -/

/-- Whole blocks in front of the data stay in front of the padded data. -/
theorem padData_append {a : List Byte} {n : Nat} (ha : a.length = 16 * n) (spad : Option PaddingMode) (b : List Byte) :
    padData spad (a ++ b) = a ++ padData spad b := by
  have hmod : (a ++ b).length % 16 = b.length % 16 := by
    rw [List.length_append]
    omega
  simp only [padData, hmod]
  split
  · exact List.append_assoc ..
  · split
    · rfl
    · exact List.append_assoc ..
  · rfl
  · rfl

/-- Only the last block matters to PKCS7 removal. -/
theorem unpadPkcs7_append (l : List Byte) {r : List Byte} (h : 16 ≤ r.length) :
    unpadPkcs7 (l ++ r) = (unpadPkcs7 r).map (l ++ ·) := by
  obtain ⟨last, hlast⟩ := Option.ne_none_iff_exists'.mp
    (List.getLast?_eq_none_iff.not.mpr (List.length_pos_iff.mp (by omega : 0 < r.length)))
  have happend : (l ++ r).getLast? = some last := by rw [List.getLast?_append, hlast]; rfl
  by_cases hbad : last.toNat = 0 ∨ 16 < last.toNat
  · rw [unpadPkcs7_of_not_padding hlast hbad, unpadPkcs7_of_not_padding happend hbad]
    rfl
  · rw [unpadPkcs7_of_padding hlast (by omega) (by omega), unpadPkcs7_of_padding happend (by omega) (by omega),
      List.length_append, Nat.add_sub_assoc (by omega), List.take_length_add_append]
    rfl

theorem blocksOf_append_bytes {a : List Byte} {n : Nat} (ha : a.length = 16 * n) (b : List Byte) :
    blocksOf ((a ++ b).length / 16) (a ++ b) = blocksOf n a ++ blocksOf (b.length / 16) b := by
  rw [show (a ++ b).length / 16 = n + b.length / 16 by rw [List.length_append]; omega, blocksOf_append _ _ _ _ ha]

section Append

variable {x z : Session} {k : KeySchedule} {a b : List Byte} {n : Nat}

theorem Session.finish_append_encrypt (hdir : x.dir = .encrypt) (ha : a.length = 16 * n)
    (hz : z = { x with fb := (encBlocks k x.smode x.fb (blocksOf n a)).2, lc := .transforming }) :
    x.finish k (a ++ b) =
      (z.finish k b).map fun t => (t.1, bytesOf (encBlocks k x.smode x.fb (blocksOf n a)).1 ++ t.2) := by
  have hzdir : z.dir = .encrypt := (congrArg Session.dir hz).trans hdir
  rw [Session.finish_encrypt _ _ hdir, Session.finish_encrypt _ _ hzdir, hz]
  simp only [Session.finishEncrypt, padData_append ha, blocksOf_append_bytes ha, encBlocks, runBlocks_append,
    bytesOf_append, Except.map]

/-- A decrypt session `z` that comes after the blocks `p` of `x`: the rest, held and new, is decrypted as its part of
the whole. Under PKCS7 a block must be left, whose last byte is the padding's. -/
theorem Session.finish_append_decrypt {p : List Block} (hdir : x.dir = .decrypt)
    (hz : z = { x with fb := (decBlocks k x.smode x.fb p).2, hold := z.hold, holdValid := z.holdValid, lc := z.lc })
    (hsplit : x.held ++ blocksOf ((a ++ b).length / 16) (a ++ b) = p ++ (z.held ++ blocksOf (b.length / 16) b))
    (hleft : x.spad = some .pkcs7 → z.held ≠ []) :
    x.finish k (a ++ b) = (z.finish k b).map fun t => (t.1, bytesOf (decBlocks k x.smode x.fb p).1 ++ t.2) := by
  have hzdir : z.dir = .decrypt := (congrArg Session.dir hz).trans hdir
  have hzpad : z.spad = x.spad := by rw [hz]
  have hzmode : z.smode = x.smode := by rw [hz]
  have hzfb : z.fb = (decBlocks k x.smode x.fb p).2 := by rw [hz]
  have hended (fb : Block) : x.ended fb = z.ended fb := by
    rw [hz]
    rfl
  have hchain : decBlocks k x.smode x.fb (x.held ++ blocksOf ((a ++ b).length / 16) (a ++ b)) =
      ((decBlocks k x.smode x.fb p).1 ++ (decBlocks k z.smode z.fb (z.held ++ blocksOf (b.length / 16) b)).1,
        (decBlocks k z.smode z.fb (z.held ++ blocksOf (b.length / 16) b)).2) := by
    rw [hsplit, hzmode, hzfb]
    exact runBlocks_append ..
  by_cases hpad : x.spad = some .pkcs7
  · have hlen : 16 ≤ (bytesOf (decBlocks k z.smode z.fb (z.held ++ blocksOf (b.length / 16) b)).1).length := by
      have := List.length_pos_iff.mpr (hleft hpad)
      rw [bytesOf_length, decBlocks, runBlocks_length, List.length_append]
      omega
    rw [Session.finish_pkcs7 _ _ hdir hpad, Session.finish_pkcs7 _ _ hzdir (hzpad.trans hpad), hchain, hended,
      bytesOf_append, unpadPkcs7_append _ hlen]
    generalize unpadPkcs7 _ = r
    cases r <;> rfl
  · rw [Session.finish_decrypt _ _ hdir hpad, Session.finish_decrypt _ _ hzdir (hzpad ▸ hpad), hchain, hended,
      bytesOf_append]
    rfl

/-- XF_BLOCK on whole blocks `a` and XF_FINAL on `b` put out what XF_FINAL on `a ++ b` does and leave the same session.
The premise is the invariant's: a block is held in a PKCS7 decrypt session only. -/
theorem Session.finish_append {y : Session} {l : List Block}
    (hheld : x.holdValid = true → x.dir = .decrypt ∧ x.spad = some .pkcs7) (ha : a.length = 16 * n)
    (ht : x.transform k (blocksOf n a) = (y, l)) (b : List Byte) :
    x.finish k (a ++ b) = (({ y with lc := .transforming } : Session).finish k b).map fun t =>
      (t.1, bytesOf l ++ t.2) := by
  cases hdir : x.dir with
  | encrypt =>
    cases (Session.transform_encrypt hdir k _).symm.trans ht
    exact Session.finish_append_encrypt hdir ha rfl
  | decrypt =>
    by_cases hpad : x.spad = some .pkcs7
    · cases n with
      | zero =>
        cases (Session.transform_nil hdir hpad k).symm.trans ht
        rw [List.length_eq_zero_iff.mp ha, List.nil_append]
        have hsame : x.finish k b = ({ x with lc := .transforming } : Session).finish k b := by
          rw [Session.finish_pkcs7 _ _ hdir hpad]
          exact (Session.finish_pkcs7 _ _ hdir hpad).symm
        rw [hsame]
        generalize Session.finish _ _ _ = r
        cases r <;> rfl
      | succ n =>
        rw [blocksOf_succ_eq_concat] at ht
        cases (Session.transform_concat hdir hpad k _ _).symm.trans ht
        refine Session.finish_append_decrypt hdir rfl ?_ nofun
        rw [blocksOf_append_bytes ha, blocksOf_succ_eq_concat]
        simp [Session.held]
    · have hnone : x.held = [] := if_neg fun hv => hpad (hheld hv).2
      cases (Session.transform_decrypt hdir hpad k _).symm.trans ht
      refine Session.finish_append_decrypt hdir rfl ?_ fun h => absurd h hpad
      rw [blocksOf_append_bytes ha]
      change x.held ++ _ = _ ++ (x.held ++ _)
      rw [hnone, List.nil_append, List.nil_append]

end Append

/-! ### The two commands -/

/-- A range that no written byte belongs to reads as before. -/
theorem Memory.bytes_write_of_disjoint {m m' : Memory} (hm : m.wf) {h o : Nat} {v : List Byte}
    (e : m.write h o v = some m') {h' i n len : Nat} (hlen : m.bufLen h' = some len) (hle : i + n ≤ len)
    (hdisj : h' = h → ∀ j, o ≤ j → j < o + v.length → j < i ∨ i + n ≤ j) :
    m'.bytes h' i n = m.bytes h' i n := by
  have hspan := (wf_bufLen hm hlen).2
  refine Memory.bytes_congr fun j hj => ?_
  rw [Memory.byte_write hm e _ _ (by omega), if_neg]
  rintro ⟨hh, hge, hlt⟩
  have := hdisj hh (i + j) hge hlt
  omega

theorem Session.Inv.held_pkcs7 {v : Bool} {x : Session} (hx : x.Inv v) (h : x.holdValid = true) :
    x.dir = .decrypt ∧ x.spad = some .pkcs7 := by
  obtain ⟨hdir, hpad, -⟩ := hx.held h
  exact ⟨hdir, hpad⟩

theorem needsWholeBlocks_transform (k : KeySchedule) (x : Session) (l : List Block) (lc : XfLc) :
    needsWholeBlocks { (x.transform k l).1 with lc := lc } = needsWholeBlocks x := by
  obtain ⟨hdir, -, hpad⟩ := x.transform_fields k l
  simp only [needsWholeBlocks, hdir, hpad]

/-- What the end of a session finds after XF_BLOCK: the session transformed, its key, the output in memory, and RETVAL
the number of bytes put out. -/
theorem exec_xfBlock_of_blockOperands_next {s u : State} {din dout : Descriptor} {inOff inCount outOff v : Word}
    {hin i n hout o : Nat} (hopen : IsOpen s.xf)
    (hops : BlockOperands s.mem din inOff inCount dout outOff hin i n hout o)
    (h : exec (.xfBlock din inOff inCount dout outOff) s = .next u) (hresp : u.response = some (.ok v [])) :
    ∃ y l, s.xf.transform s.key (blocksOf n (s.mem.bytes hin i (16 * n))) = (y, l) ∧
      s.mem.write hout o (bytesOf l) = some u.mem ∧ u.xf = { y with lc := .transforming } ∧ u.key = s.key ∧
      v.toNat = (bytesOf l).length := by
  rcases ht : s.xf.transform s.key (blocksOf n (s.mem.bytes hin i (16 * n))) with ⟨y, l⟩
  obtain ⟨m, hm, hrun⟩ := exec_xfBlock_of_blockOperands hopen hops ht
  cases hrun.symm.trans h
  cases hresp
  refine ⟨y, l, rfl, hm, rfl, rfl, ?_⟩
  have hlt := lt_of_inRange hops.1
  have hlen := s.xf.transform_length_le s.key (blocksOf n (s.mem.bytes hin i (16 * n)))
  rw [ht, blocksOf_length] at hlen
  rw [bytesOf_length, BitVec.toNat_ofNat, Nat.mod_eq_of_lt (by omega)]

/-- Settles O55: the two ends read the same bytes, and `Session.finish_append` relates what they answer. -/
theorem streamingEqualsOneFinish : Obligations.StreamingEqualsOneFinish := by
  unfold Obligations.StreamingEqualsOneFinish
  intro s u w w1 din dout inOff inCount outOff off cnt cnt1 v hin i n hout o m hinv hopen hops hclear hr hr1 hblock
    hresp hw hw1
  obtain ⟨y, l, ht, hm, hxf, hkey, hv⟩ := exec_xfBlock_of_blockOperands_next hopen hops hblock hresp
  have hopen' : IsOpen u.xf := .inr (congrArg Session.lc hxf)
  have hneeds : needsWholeBlocks u.xf = needsWholeBlocks s.xf := by
    have hkept := needsWholeBlocks_transform s.key s.xf (blocksOf n (s.mem.bytes hin i (16 * n))) .transforming
    rwa [ht, ← hxf] at hkept
  obtain ⟨hvalid, hhandle, hoff, hcnt, len, hlen, hle⟩ := hr
  have hr' : InRange u.mem din off cnt hin (i + 16 * n) m :=
    ⟨hvalid, hhandle, hoff, hcnt, len, (Memory.write_bufLen hm hin).trans hlen, hle⟩
  have hrest : u.mem.bytes hin (i + 16 * n) m = s.mem.bytes hin (i + 16 * n) m :=
    Memory.bytes_write_of_disjoint hinv.mem hm hlen hle fun hh j hge hlt => hclear hh j hge (hv ▸ hlt)
  have hfin := Session.finish_append hinv.xf.held_pkcs7 (Memory.bytes_length ..) ht (s.mem.bytes hin (i + 16 * n) m)
  rw [← Memory.bytes_append, ← hrest, ← hxf] at hfin
  by_cases hwhole : needsWholeBlocks s.xf = true → m % 16 = 0
  · have hwhole1 (h : needsWholeBlocks s.xf = true) : (16 * n + m) % 16 = 0 := by
      have := hwhole h
      omega
    rw [← hneeds] at hwhole
    cases hend : u.xf.finish s.key (u.mem.bytes hin (i + 16 * n) m) with
    | error e =>
      rw [hend] at hfin
      cases (exec_xfFinal_of_finish_error hr1 hopen hwhole1 hfin).symm.trans hw1
      cases (exec_xfFinal_of_finish_error hr' hopen' hwhole (hkey ▸ hend)).symm.trans hw
      exact ⟨fun _ => Iff.rfl, nofun⟩
    | ok t =>
      rw [hend] at hfin
      cases (exec_xfFinal_of_finish_ok hr1 hopen hwhole1 hfin).symm.trans hw1
      cases (exec_xfFinal_of_finish_ok hr' hopen' hwhole (hkey ▸ hend)).symm.trans hw
      refine ⟨fun _ => ⟨nofun, nofun⟩, fun r out hout => ?_⟩
      cases hout
      refine ⟨rfl, BitVec.ofNat 32 (bytesOf l ++ t.2).length, ?_⟩
      rw [hv, Memory.bytes_write hinv.mem hm]
      rfl
  · obtain ⟨hneed, hbad⟩ := Classical.not_imp.mp hwhole
    cases (exec_xfFinal_of_length hr1 hopen hneed (by omega)).symm.trans hw1
    cases (exec_xfFinal_of_length hr' hopen' (hneeds.trans hneed) hbad).symm.trans hw
    exact ⟨fun _ => Iff.rfl, nofun⟩

end Sys2Proof.Machine
end

section
/-! Reading the digests with RDHASH (`45_system.md` rule R251). -/

namespace Sys2Proof.Machine

open Sys2Proof.Spec

theorem exec_rdhash_of_none {s : State} {e : BitVec 4} (h : hashOf s e = none) :
    exec (.rdhash e) s = .next (failed s .illegal) := by
  simp only [exec, execRdhash, h]
  rfl

theorem exec_rdhash_of_not_valid {s : State} {e : BitVec 4} {hash : List Byte} (h : hashOf s e = some (false, hash)) :
    exec (.rdhash e) s = .next (failed s .sequence) := by
  simp only [exec, execRdhash, h]
  rfl

theorem exec_rdhash_of_valid {s : State} {e : BitVec 4} {hash : List Byte} (h : hashOf s e = some (true, hash)) :
    exec (.rdhash e) s = .next { s with response := some (.ok (BitVec.ofNat 32 hash.length) hash) } := by
  simp only [exec, execRdhash, h]
  rfl

/-- Equal numbers, equal engines. -/
theorem hashOf_of_toNat {s : State} {e k : BitVec 4} {r : Bool × List Byte} (hk : hashOf s k = some r)
    (he : e.toNat = k.toNat) : hashOf s e = some r := by
  cases BitVec.eq_of_toNat_eq he
  exact hk

/-- Settles O58: the valid bit and the bytes are `hashOf`'s, evaluated at each engine's number. -/
theorem hashReads : Obligations.HashReads := by
  unfold Obligations.HashReads
  intro s e valid hash
  refine ⟨fun he => exec_rdhash_of_none ((hashOf_eq_none_iff s e).mpr he), fun hengine => ?_⟩
  have hread : hashOf s e = some (valid, hash) := by
    rcases hengine with ⟨he, rfl, rfl⟩ | ⟨he, rfl, rfl⟩ | ⟨he, rfl, rfl⟩ | ⟨he, rfl, rfl⟩
    · exact hashOf_of_toNat (k := 0) rfl he
    · exact hashOf_of_toNat (k := 1) rfl he
    · exact hashOf_of_toNat (k := 2) rfl he
    · exact hashOf_of_toNat (k := 3) rfl he
  refine ⟨?notValid, ?valid⟩
  case notValid =>
    rintro rfl
    exact exec_rdhash_of_not_valid hread
  case valid =>
    rintro rfl
    exact exec_rdhash_of_valid hread

end Sys2Proof.Machine
end

section
/-! Errors (`60_exceptions.md` rules R260 to R266): every command answers, an error changes the response only and comes
from the command's row of the table, and the errors of a (buffer, offset, count) operand come in order. -/

namespace Sys2Proof.Machine

open Sys2Proof.Spec

/-- Settles O8: the eleven responses are evaluated. -/
theorem errorResponseWords : Obligations.ErrorResponseWords :=
  ⟨rfl, rfl, rfl, rfl, rfl, rfl, rfl, rfl, rfl, rfl, rfl⟩

/-! ### Every command answers; an error changes nothing else -/

/-- Settles O9: a command raises an error or completes, and both endings write the response. -/
theorem everyCommandGetsAResponse : Obligations.EveryCommandGetsAResponse := by
  unfold Obligations.EveryCommandGetsAResponse
  intro i s
  rcases exec_cases i s with ⟨e, -, hrun⟩ | ⟨v, out, u, -, hrun⟩
  · exact ⟨_, _, hrun, rfl⟩
  · exact ⟨_, _, hrun, rfl⟩

/-- An error answered is the one the command raised (rule R262). -/
theorem exec_next_error {i : Instr} {s t : State} {e : Err} (h : exec i s = .next t)
    (hresp : t.response = some (.error e)) : Raises i s e ∧ t = failed s e := by
  rcases exec_next h with ⟨e', he, rfl⟩ | ⟨v, out, u, -, rfl⟩
  · cases hresp
    exact ⟨he, rfl⟩
  · cases hresp

/-- Settles O10. -/
theorem failedCommandChangesNothing : Obligations.FailedCommandChangesNothing :=
  fun _ _ _ _ h hresp => (exec_next_error h hresp).2

/-- Settles O11, by the rows of `Raises`. -/
theorem errorsStayInTheirTable : Obligations.ErrorsStayInTheirTable :=
  fun _ _ _ _ h hresp => (exec_next_error h hresp).1.canRaise_or_illegal

/-! ### The errors of the checks, in order (rules R265, R266) -/

theorem checkRange_of_rangeError {m : Memory} {d : Descriptor} {off cnt : Word} {sub : ArgSub}
    (h : RangeError m d off cnt (some sub)) : checkRange m d off cnt = .error (.arg sub) := by
  cases sub with
  | null => simp only [checkRange, namedBuffer_of_isNull h]
  | neg =>
    obtain ⟨hnamed, hneg⟩ := h
    simp only [checkRange, namedBuffer_of_not_isNull hnamed, s32_eq_toInt, if_pos hneg]
  | bounds =>
    obtain ⟨hnamed, hoff, hcnt, hlen⟩ := h
    simp only [checkRange, namedBuffer_of_not_isNull hnamed, s32_eq_toInt, if_neg (not_or.mpr ⟨hoff.not_gt, hcnt.not_gt⟩),
      if_pos hlen]
  | overlap | keylen => exact h.elim

theorem updateChecks_of_finalized {lc : HashLc} (h : lc = .finalized) (m : Memory) (d : Descriptor) (off cnt : Word) :
    updateChecks lc m d off cnt = .error .sequence :=
  if_pos h

theorem updateChecks_of_rangeError {lc : HashLc} (hlc : lc ≠ .finalized) {m : Memory} {d : Descriptor} {off cnt : Word}
    {sub : ArgSub} (h : RangeError m d off cnt (some sub)) : updateChecks lc m d off cnt = .error (.arg sub) :=
  (if_neg hlc).trans (checkRange_of_rangeError h)

theorem finalChecks_of_rangeError {s : State} (hopen : IsOpen s.xf) {d : Descriptor} {off cnt : Word} {sub : ArgSub}
    (h : RangeError s.mem d off cnt (some sub)) : finalChecks s d off cnt = .error (.arg sub) := by
  simp only [finalChecks, openSession_of_isOpen hopen, checkRange_of_rangeError h]

/-! ### Checks that fail: the command answers their error -/

theorem crcUpdate_of_error {w : Nat} {step : BitVec w → Byte → BitVec w} {e : CrcEngine w} {put : CrcEngine w → State}
    {s : State} {d : Descriptor} {off cnt : Word} {err : Err} (h : updateChecks e.lc s.mem d off cnt = .error err) :
    crcUpdate step e put d off cnt s = .next (failed s err) := by
  simp only [crcUpdate, h, orRaise]
  rfl

theorem exec_md5Update_of_error {s : State} {d : Descriptor} {off cnt : Word} {err : Err}
    (h : updateChecks s.md5.lc s.mem d off cnt = .error err) :
    exec (.md5Update d off cnt) s = .next (failed s err) := by
  simp only [exec, execMd5Update, h, orRaise]
  rfl

/-- Settles O12: the lifecycle is checked first, and then the range by its classes in order. -/
theorem rangeErrorsInOrder : Obligations.RangeErrorsInOrder := by
  unfold Obligations.RangeErrorsInOrder
  intro s d off cnt sub h
  exact ⟨fun hlc => crcUpdate_of_error (updateChecks_of_rangeError hlc h),
    fun hlc => crcUpdate_of_error (updateChecks_of_finalized hlc ..),
    fun hlc => crcUpdate_of_error (updateChecks_of_rangeError hlc h),
    fun hlc => crcUpdate_of_error (updateChecks_of_finalized hlc ..),
    fun hlc => crcUpdate_of_error (updateChecks_of_rangeError hlc h),
    fun hlc => crcUpdate_of_error (updateChecks_of_finalized hlc ..),
    fun hlc => exec_md5Update_of_error (updateChecks_of_rangeError hlc h),
    fun hlc => exec_md5Update_of_error (updateChecks_of_finalized hlc ..),
    fun hopen => exec_xfFinal_of_error (finalChecks_of_rangeError hopen h),
    fun hlc => exec_xfFinal_of_error (finalChecks_of_openSession_error (openSession_of_disposed hlc) ..),
    fun hlc => exec_xfFinal_of_error (finalChecks_of_openSession_error (openSession_of_finalized hlc) ..)⟩

end Sys2Proof.Machine
end

section
/-! The arcs of the four hash engines (`60_exceptions.md` rules R270, R271). -/

namespace Sys2Proof.Machine

open Sys2Proof.Spec

/-! ### Successes and failures -/

theorem exec_next_of_isOk {i : Instr} {s t : State} (h : exec i s = .next t) (hok : IsOk t) :
    ∃ u r, Effect i s u ∧ t = u.withResponse r := by
  rcases exec_next h with ⟨e, -, rfl⟩ | ⟨v, out, u, hu, rfl⟩
  · obtain ⟨v, out, hresp⟩ := hok
    cases hresp
  · exact ⟨u, _, hu.effect, rfl⟩

theorem exec_next_of_not_isOk {i : Instr} {s t : State} (h : exec i s = .next t) (hfail : ¬IsOk t) :
    ∃ e, t = failed s e := by
  rcases exec_next h with ⟨e, -, rfl⟩ | ⟨v, out, u, -, rfl⟩
  · exact ⟨e, rfl⟩
  · exact absurd ⟨v, out, rfl⟩ hfail

/-! ### The CRC engines (rule R270) -/

/-- The table has ERR_SEQUENCE from Finalized only. -/
theorem eq_finalized_of_crcArc_none {op : CrcOp} {lc : HashLc} (h : crcArc op lc = none) : lc = .finalized := by
  cases op with
  | init | setInit | setXor => cases h
  | update | final =>
    cases lc with
    | idle | accumulating => cases h
    | finalized => rfl

theorem exec_of_crcArc_none {i : Instr} {s : State} {v : CrcVariant} {op : CrcOp} (hi : crcRole i = some (v, op))
    (harc : crcArc op (lcOf s v) = none) : exec i s = .next (failed s .sequence) := by
  have hlc := eq_finalized_of_crcArc_none harc
  cases i with
  | crc16Update | crc32Update | xcrcUpdate =>
    cases hi
    exact crcUpdate_of_error (updateChecks_of_finalized hlc ..)
  | crc16Final | crc32Final | xcrcFinal =>
    cases hi
    exact crcFinal_of_finalized hlc
  | crc16Init | crc32Init | xcrcInit | crc16Setinit | crc32Setinit | xcrcSetinit | crc16Setxor | crc32Setxor
  | xcrcSetxor =>
    cases hi
    cases harc
  | _ => cases hi

/-- An operation on an engine takes the arc of the table. -/
theorem CrcEngine.Performs.lc_eq {w : Nat} {emit : BitVec w → List Byte} {e e' : CrcEngine w} {op : CrcOp} {lc : HashLc}
    (h : e.Performs emit op e') (harc : crcArc op e.lc = some lc) : e'.lc = lc := by
  cases h with
  | init | setInit | setXor =>
    cases harc
    rfl
  | update | final =>
    generalize e.lc = before at harc
    cases before with
    | idle | accumulating =>
      cases harc
      rfl
    | finalized => cases harc

theorem Effect.lcOf_eq {i : Instr} {s u : State} {v : CrcVariant} {op : CrcOp} {lc : HashLc} (h : Effect i s u)
    (hi : crcRole i = some (v, op)) (harc : crcArc op (lcOf s v) = some lc) : lcOf u v = lc := by
  rcases h.of_crcRole hi with ⟨rfl, e, he, rfl⟩ | ⟨rfl, e, he, rfl⟩ | ⟨rfl, e, he, rfl⟩ <;>
    exact he.lc_eq harc

theorem lcOf_withResponse (s : State) (r : Option Response) (v : CrcVariant) : lcOf (s.withResponse r) v = lcOf s v := rfl

/-- Settles O19: the refusals are those of UPDATE and FINAL from Finalized, a success is one operation on the engine, and
an error changes the response only. -/
theorem crcLifecycleArcs : Obligations.CrcLifecycleArcs := by
  unfold Obligations.CrcLifecycleArcs
  intro i s t v op hi h
  refine ⟨fun harc => ?refused, fun lc harc hok => ?success, fun hfail => ?failure⟩
  case refused =>
    cases (exec_of_crcArc_none hi harc).symm.trans h
    rfl
  case success =>
    obtain ⟨u, r, hu, rfl⟩ := exec_next_of_isOk h hok
    rw [lcOf_withResponse]
    exact hu.lcOf_eq hi harc
  case failure =>
    obtain ⟨e, rfl⟩ := exec_next_of_not_isOk h hfail
    exact lcOf_withResponse s _ v

/-! ### The MD5 engine (rule R271) -/

/-- The table has ERR_SEQUENCE from Finalized only. -/
theorem eq_finalized_of_md5Arc_none {op : Md5Op} {lc : HashLc} (h : md5Arc op lc = none) : lc = .finalized := by
  cases op with
  | init => cases h
  | update | final =>
    cases lc with
    | idle | accumulating => cases h
    | finalized => rfl

theorem exec_of_md5Arc_none {i : Instr} {s : State} {op : Md5Op} (hi : md5Role i = some op)
    (harc : md5Arc op s.md5.lc = none) : exec i s = .next (failed s .sequence) := by
  have hlc := eq_finalized_of_md5Arc_none harc
  cases i with
  | md5Update => exact exec_md5Update_of_error (updateChecks_of_finalized hlc ..)
  | md5Final => exact exec_md5Final_of_finalized hlc
  | md5Init =>
    cases hi
    cases harc
  | _ => cases hi

/-- An operation on the engine takes the arc of the table. -/
theorem Md5Engine.Performs.lc_eq {e e' : Md5Engine} {op : Md5Op} {lc : HashLc} (h : e.Performs op e')
    (harc : md5Arc op e.lc = some lc) : e'.lc = lc := by
  cases h with
  | init =>
    cases harc
    rfl
  | update | final =>
    generalize e.lc = before at harc
    cases before with
    | idle | accumulating =>
      cases harc
      rfl
    | finalized => cases harc

theorem Effect.md5_lc_eq {i : Instr} {s u : State} {op : Md5Op} {lc : HashLc} (h : Effect i s u)
    (hi : md5Role i = some op) (harc : md5Arc op s.md5.lc = some lc) : u.md5.lc = lc := by
  cases h with
  | md5 hi' h =>
    cases hi'.symm.trans hi
    exact h.lc_eq harc
  | crc16 hc | crc32 hc | xcrc hc => cases (crcRole_of_md5Role (hi ▸ nofun)).symm.trans hc
  | _ => cases hi

/-- Settles O20, as O19. -/
theorem md5LifecycleArcs : Obligations.Md5LifecycleArcs := by
  unfold Obligations.Md5LifecycleArcs
  intro i s t op hi h
  refine ⟨fun harc => ?refused, fun lc harc hok => ?success, fun hfail => ?failure⟩
  case refused =>
    cases (exec_of_md5Arc_none hi harc).symm.trans h
    rfl
  case success =>
    obtain ⟨u, r, hu, rfl⟩ := exec_next_of_isOk h hok
    exact hu.md5_lc_eq hi harc
  case failure =>
    obtain ⟨e, rfl⟩ := exec_next_of_not_isOk h hfail
    rfl

end Sys2Proof.Machine
end

section
/-! Reset and hazards (`70_reset_and_hazards.md`): the reset event (rules R290, R291), and that nothing but registers,
operands and named buffers enters a command (rule R301). -/

namespace Sys2Proof.Machine

open Sys2Proof.Spec

/-! ### The reset event -/

theorem step_of_reset {s : State} {ms : List HostMove} (hlink : s.link = []) (hmoves : s.moves = .reset :: ms) :
    step s = .next (resetBlock (s.withMoves ms)) := by
  have hwait : decode s.link = .incomplete := by rw [hlink]; rfl
  rw [step_of_incomplete hwait, hostTurn_of_cons hmoves]
  exact if_pos hlink

/-- Settles O60: the host's turn runs `resetBlock`, and the link was empty. -/
theorem resetEventRestoresEveryRegister : Obligations.ResetEventRestoresEveryRegister := by
  unfold Obligations.ResetEventRestoresEveryRegister
  intro s ms hlink hmoves
  rw [step_of_reset hlink hmoves, resetBlock, State.withMoves_link, hlink]
  rfl

/-! ### Named buffers with equal contents -/

section Buffers

variable {ds : List Descriptor} {m m' : Memory} (hm : SameBuffers ds m m') {d e : Descriptor} (hd : d ∈ ds) (he : e ∈ ds)
include hm hd

theorem namedBuffer_congr : namedBuffer m d = namedBuffer m' d := by
  unfold namedBuffer
  split
  next hv => rw [(hm d hd hv).1]
  · rfl

theorem checkRange_congr (off cnt : Word) : checkRange m d off cnt = checkRange m' d off cnt := by
  simp only [checkRange, namedBuffer_congr hm hd]

theorem checkKey_congr : checkKey m d = checkKey m' d := by
  simp only [checkKey, namedBuffer_congr hm hd]

section
include he

theorem checkKeyIv_congr : checkKeyIv m d e = checkKeyIv m' d e := by
  simp only [checkKeyIv, namedBuffer_congr hm hd, namedBuffer_congr hm he]

theorem checkBlockRanges_congr (inOff inCount outOff : Word) :
    checkBlockRanges m d inOff inCount e outOff = checkBlockRanges m' d inOff inCount e outOff := by
  simp only [checkBlockRanges, namedBuffer_congr hm hd, namedBuffer_congr hm he]

end

theorem bytes_congr_of_sameBuffers (hv : d.valid = true) {i n len : Nat} (hlen : m.bufLen d.handle.toNat = some len)
    (hle : i + n ≤ len) : m.bytes d.handle.toNat i n = m'.bytes d.handle.toNat i n := by
  refine Memory.bytes_congr fun k hk => (hm d hd hv).2 _ ?_
  simp only [lenOf, hlen, Option.getD_some]
  omega

/-- MemRead of a named buffer answers the same, in or out of its range. -/
theorem read_congr_of_sameBuffers (hv : d.valid = true) (i n : Nat) :
    m.read d.handle.toNat i n = m'.read d.handle.toNat i n := by
  unfold Memory.read
  rw [← (hm d hd hv).1]
  cases hlen : m.bufLen d.handle.toNat with
  | none => rfl
  | some len => exact ite_congr rfl (fun hle => congrArg some (bytes_congr_of_sameBuffers hm hd hv hlen hle)) fun _ => rfl

end Buffers

theorem lenOf_le_bufferSpan {m : Memory} (hm : m.wf) (d : Descriptor) : lenOf m d ≤ bufferSpan := by
  unfold lenOf
  cases hlen : m.bufLen d.handle.toNat with
  | none => exact Nat.zero_le _
  | some len => exact (wf_bufLen hm hlen).2.le

/-- The same MemWrite in two canonical memories keeps the named buffers equal, whichever buffer it goes to. -/
theorem sameBuffers_write {ds : List Descriptor} {m m' u u' : Memory} (hm : SameBuffers ds m m') (hwf : m.wf)
    (hwf' : m'.wf) {h i : Nat} {v : List Byte} (hw : m.write h i v = some u) (hw' : m'.write h i v = some u') :
    SameBuffers ds u u' := by
  intro d hd hv
  obtain ⟨hlen, hbytes⟩ := hm d hd hv
  refine ⟨by rw [Memory.write_bufLen hw, Memory.write_bufLen hw', hlen], fun j hj => ?_⟩
  rw [lenOf, Memory.write_bufLen hw] at hj
  have hspan : j < bufferSpan := hj.trans_le (lenOf_le_bufferSpan hwf d)
  rw [Memory.byte_write hwf hw _ _ hspan, Memory.byte_write hwf' hw' _ _ hspan, hbytes j hj]

/-! ### Two runs side by side -/

/-- Two states that a command naming `ds` cannot tell apart: equal registers, equal contents of the named buffers. -/
structure SameView (ds : List Descriptor) (s s' : State) : Prop where
  registers : registers s = registers s'
  buffers   : SameBuffers ds s.mem s'.mem

/-- Two runs that end, if they end in states, with the same response in states of the same view. -/
def Agree (ds : List Descriptor) (r r' : Result) : Prop :=
  ∀ t t', r = .next t → r' = .next t' → t.response = t'.response ∧ SameView ds t t'

/-- `s` with another host: other memory, link, plans and last response. -/
def State.withHost (s : State) (m : Memory) (l : List Word) (mv : List HostMove) (q : Option Response) : State :=
  { s with mem := m, link := l, moves := mv, response := q }

/-- Equal registers: the states differ in their hosts alone. -/
theorem eq_withHost_of_registers {s s' : State} (h : registers s = registers s') :
    s' = s.withHost s'.mem s'.link s'.moves s'.response := by
  cases s
  cases s'
  cases h
  rfl

/-! One rule for each shared operation. The effects go in without their arguments written out, so that a rule applies to
a command by its name. -/

section Rules

variable {ds : List Descriptor} {s s' : State}

theorem agree_withResponse {q : Option Response} (hs : SameView ds s s') :
    Agree ds (.next (s.withResponse q)) (.next (s'.withResponse q)) := by
  rintro _ _ ⟨⟩ ⟨⟩
  exact ⟨rfl, hs.registers, hs.buffers⟩

theorem agree_raise {e : Err} (hs : SameView ds s s') : Agree ds (raise e s) (raise e s') := agree_withResponse hs

theorem agree_respond {v : Word} {out : List Byte} (hs : SameView ds s s') :
    Agree ds (respond v out s) (respond v out s') := agree_withResponse hs

theorem agree_ite {c : Prop} [Decidable c] {a a' b b' : Result} (ha : Agree ds a a') (hb : Agree ds b b') :
    Agree ds (if c then a else b) (if c then a' else b') := by
  split
  · exact ha
  · exact hb

theorem agree_orRaise {α : Type} {r r' : Except Err α} {k k' : α → Result} (hs : SameView ds s s') (hr : r = r')
    (hk : ∀ a, r = .ok a → Agree ds (k a) (k' a)) : Agree ds (orRaise s r k) (orRaise s' r' k') := by
  subst hr
  cases r with
  | error e => exact agree_raise hs
  | ok a => exact hk a rfl

theorem agree_withImm16 {imm : Word} {k k' : BitVec 16 → State} (hs : SameView ds s s')
    (hk : ∀ v, SameView ds (k v) (k' v)) : Agree ds (withImm16 imm s k) (withImm16 imm s' k') := by
  unfold withImm16
  cases imm16 imm with
  | none => exact agree_raise hs
  | some v => exact agree_respond (hk v)

theorem agree_withBytes {m m' : Memory} (hm : SameBuffers ds m m') {d : Descriptor} (hd : d ∈ ds) (hv : d.valid = true)
    {i n : Nat} {k k' : List Byte → Result} (hk : ∀ data, Agree ds (k data) (k' data)) :
    Agree ds (withBytes m d.handle.toNat i n k) (withBytes m' d.handle.toNat i n k') := by
  unfold withBytes
  rw [← read_congr_of_sameBuffers hm hd hv]
  cases m.read d.handle.toNat i n with
  | none => exact fun _ _ h => nomatch h
  | some data => exact hk data

/-- An UPDATE, CRC or MD5: the checks, then the bytes of the range (rules R133, R165). -/
theorem agree_update {d : Descriptor} {lc : HashLc} {off cnt : Word} {k k' : List Byte → Result}
    (hs : SameView [d] s s') (hk : ∀ data, Agree [d] (k data) (k' data)) :
    Agree [d] (orRaise s (updateChecks lc s.mem d off cnt) fun r => withBytes s.mem r.handle r.off r.len k)
      (orRaise s' (updateChecks lc s'.mem d off cnt) fun r => withBytes s'.mem r.handle r.off r.len k') := by
  have hd := List.mem_singleton_self d
  refine agree_orRaise hs (if_congr Iff.rfl rfl (checkRange_congr hs.buffers hd off cnt)) fun r hr => ?_
  obtain ⟨hv, -, -, -, -, -, rfl⟩ := (checkRange_eq_ok_iff ..).mp ((updateChecks_eq_ok_iff ..).mp hr).2
  exact agree_withBytes hs.buffers hd hv hk

end Rules

/-! ### The commands on one state and two hosts -/

section Commands

variable {s : State} {m : Memory} {l : List Word} {mv : List HostMove} {q : Option Response}

theorem agree_aesKeyexp {d : Descriptor} (hm : SameBuffers [d] s.mem m) :
    Agree [d] (execAesKeyexp d s) (execAesKeyexp d (s.withHost m l mv q)) := by
  have hd := List.mem_singleton_self d
  refine agree_orRaise ⟨rfl, hm⟩ (if_congr Iff.rfl rfl (checkKey_congr hm hd)) fun r hr => ?_
  rw [keyexpChecks_of_disposed (keyexpChecks_ok hr).1] at hr
  obtain ⟨hv, -, -, -, rfl⟩ := (checkKey_eq_ok_iff ..).mp hr
  exact agree_withBytes hm hd hv fun key => agree_respond ⟨rfl, hm⟩

theorem agree_xfCreate (dir : Dir) {d e : Descriptor} (hm : SameBuffers [d, e] s.mem m) :
    Agree [d, e] (xfCreate dir d e s) (xfCreate dir d e (s.withHost m l mv q)) := by
  have hd : d ∈ [d, e] := by simp
  have he : e ∈ [d, e] := by simp
  refine agree_orRaise ⟨rfl, hm⟩ (if_congr Iff.rfl rfl (checkKeyIv_congr hm hd he)) fun r hr => ?_
  rw [createChecks_of_disposed (createChecks_ok hr).1] at hr
  obtain ⟨hv, hv', -, -, -, -, -, rfl⟩ := (checkKeyIv_eq_ok_iff ..).mp hr
  exact agree_withBytes hm hd hv fun key => agree_withBytes hm he hv' fun iv => agree_respond ⟨rfl, hm⟩

theorem agree_xfBlock {d e : Descriptor} {inOff inCount outOff : Word} (hwf : s.mem.wf) (hwf' : m.wf)
    (hm : SameBuffers [d, e] s.mem m) :
    Agree [d, e] (exec (.xfBlock d inOff inCount e outOff) s)
      (exec (.xfBlock d inOff inCount e outOff) (s.withHost m l mv q)) := by
  have hd : d ∈ [d, e] := by simp
  have he : e ∈ [d, e] := by simp
  have hchecks : blockChecks (s.withHost m l mv q) d inOff inCount e outOff = blockChecks s d inOff inCount e outOff := by
    simp only [blockChecks, checkBlockRanges_congr hm hd he]
    rfl
  cases hc : blockChecks s d inOff inCount e outOff with
  | error err =>
    rw [exec_xfBlock_of_error hc, exec_xfBlock_of_error (hchecks.trans hc)]
    exact agree_withResponse ⟨rfl, hm⟩
  | ok r =>
    obtain ⟨hv, -, nin, -, hin, -, hoff, hcnt, -, hle, -, -, -, rfl⟩ :=
      (checkBlockRanges_eq_ok_iff ..).mp (blockChecks_ok_ranges hc)
    have hbytes := bytes_congr_of_sameBuffers hm hd hv (i := (s32 inOff).toNat) (n := (s32 inCount).toNat) hin (by omega)
    obtain ⟨u, hw, hrun⟩ := exec_xfBlock_of_ok hc rfl
    obtain ⟨u', hw', hrun'⟩ := exec_xfBlock_of_ok (hchecks.trans hc)
      (congrArg (fun data => s.xf.transform s.key (blocksOf ((s32 inCount).toNat / 16) data)) hbytes.symm)
    rw [hrun, hrun']
    exact agree_respond ⟨rfl, sameBuffers_write hm hwf hwf' hw hw'⟩

theorem finalChecks_ok_range {d : Descriptor} {off cnt : Word} {r : Span} (h : finalChecks s d off cnt = .ok r) :
    checkRange s.mem d off cnt = .ok r := by
  unfold finalChecks at h
  split at h
  · cases h
  · split at h
    · cases h
    next hrange =>
      split at h
      · cases h
      · cases h
        exact hrange

theorem agree_xfFinal {d : Descriptor} {off cnt : Word} (hm : SameBuffers [d] s.mem m) :
    Agree [d] (execXfFinal d off cnt s) (execXfFinal d off cnt (s.withHost m l mv q)) := by
  have hd := List.mem_singleton_self d
  have hchecks : finalChecks s d off cnt = finalChecks (s.withHost m l mv q) d off cnt := by
    simp only [finalChecks, checkRange_congr hm hd]
    rfl
  refine agree_orRaise ⟨rfl, hm⟩ hchecks fun r hr => ?_
  obtain ⟨hv, -, -, -, -, -, rfl⟩ := (checkRange_eq_ok_iff ..).mp (finalChecks_ok_range hr)
  exact agree_withBytes hm hd hv fun data => agree_orRaise ⟨rfl, hm⟩ rfl fun t _ => agree_respond ⟨rfl, hm⟩

theorem agree_rdreg {ds : List Descriptor} {n : BitVec 16} (hs : SameView ds s (s.withHost m l mv q)) :
    Agree ds (exec (.rdreg n) s) (exec (.rdreg n) (s.withHost m l mv q)) := by
  cases hv : registerValue s n with
  | none =>
    rw [exec_rdreg_of_none hv, exec_rdreg_of_none (s := s.withHost m l mv q) hv]
    exact agree_withResponse hs
  | some v =>
    rw [exec_rdreg_of_some hv, exec_rdreg_of_some (s := s.withHost m l mv q) hv]
    exact agree_withResponse hs

theorem agree_rdhash {ds : List Descriptor} {e : BitVec 4} (hs : SameView ds s (s.withHost m l mv q)) :
    Agree ds (exec (.rdhash e) s) (exec (.rdhash e) (s.withHost m l mv q)) := by
  rcases hv : hashOf s e with _ | ⟨_ | _, hash⟩
  · rw [exec_rdhash_of_none hv, exec_rdhash_of_none (s := s.withHost m l mv q) hv]
    exact agree_withResponse hs
  · rw [exec_rdhash_of_not_valid hv, exec_rdhash_of_not_valid (s := s.withHost m l mv q) hv]
    exact agree_withResponse hs
  · rw [exec_rdhash_of_valid hv, exec_rdhash_of_valid (s := s.withHost m l mv q) hv]
    exact agree_withResponse hs

/-- Every command reads the same registers and the same bytes of its buffers, whatever else the host holds. -/
theorem exec_agree (i : Instr) (hwf : s.mem.wf) (hwf' : m.wf) (hm : SameBuffers (descriptors i) s.mem m) :
    Agree (descriptors i) (exec i s) (exec i (s.withHost m l mv q)) := by
  have hs : SameView (descriptors i) s (s.withHost m l mv q) := ⟨rfl, hm⟩
  cases i with
  | rdreg => exact agree_rdreg hs
  | rdhash => exact agree_rdhash hs
  | crc16Init | crc32Init | xcrcInit | crc32Setinit | crc32Setxor | md5Init | xfDispose =>
    exact agree_respond ⟨rfl, hm⟩
  | crc16Setinit | xcrcSetinit | crc16Setxor | xcrcSetxor => exact agree_withImm16 hs fun v => ⟨rfl, hm⟩
  | crc16Update | crc32Update | xcrcUpdate | md5Update =>
    exact agree_update hs fun data => agree_respond ⟨rfl, hm⟩
  | crc16Final | crc32Final | xcrcFinal | md5Final => exact agree_ite (agree_raise hs) (agree_respond ⟨rfl, hm⟩)
  | aesKeyexp => exact agree_aesKeyexp hm
  | aesCipher | aesInvcipher => exact agree_ite (agree_respond ⟨rfl, hm⟩) (agree_raise hs)
  | cfgSetmode | cfgSetpad => exact agree_orRaise hs rfl fun v _ => agree_respond ⟨rfl, hm⟩
  | xfCreateEnc | xfCreateDec => exact agree_xfCreate _ hm
  | xfBlock => exact agree_xfBlock hwf hwf' hm
  | xfFinal => exact agree_xfFinal hm

end Commands

/-- Settles O15: states with equal registers differ in their hosts alone, and `exec_agree` runs the command on both. -/
theorem nothingElseEntersACommand : Obligations.NothingElseEntersACommand := by
  unfold Obligations.NothingElseEntersACommand
  intro i s s' t t' hwf hwf' hreg hbuf ht ht'
  rw [eq_withHost_of_registers hreg] at ht'
  obtain ⟨hresp, hregs, hbufs⟩ := exec_agree i hwf hwf' hbuf t t' ht ht'
  exact ⟨hresp, hregs, hbufs⟩

end Sys2Proof.Machine
end
